-- ==== Sys2Proof/Word.lean ====
section
/-! DEFINITION. The word types of the machine (spec/00_scope.md R6, R9): every value is an unsigned
bit vector of a fixed width. -/

namespace Sys2Proof

/-- A general register, a timer, a memory cell, the immediate `kk` (R6 `REG_BITS`, `TIMER_BITS`). -/
abbrev Byte := BitVec 8

/-- An instruction word, `pc`, `I`, a stack entry (R6 `INSTR_BITS`, `PC_BITS`, `I_BITS`). -/
abbrev Word := BitVec 16

/-- A 4-bit field: a register number `x` or `y`, the row count `n`, a key number (R92). -/
abbrev Nibble := BitVec 4

/-- A 12-bit memory address, and the immediate `nnn` (R6 `ADDR_BITS`, R92). -/
abbrev Addr := BitVec 12

end Sys2Proof
end

