-- ==== Sys2Proof/Syntax.lean ====
section
/-! DEFINITION. The instructions: one constructor per row of spec/opcode_table.json, in the order of
spec/30_encoding.md R96, with the operand fields of R92 at their own widths (R93: every value of every
field is legal). -/

namespace Sys2Proof

/-- The 34 instructions of 30_encoding.md R96. -/
inductive Instr where
  /-- `00E0` `CLS` (44_display.md R230). -/
  | cls
  /-- `00EE` `RET` (41_control_flow.md R161). -/
  | ret
  /-- `1nnn` `JP nnn` (R162). -/
  | jp (nnn : Addr)
  /-- `2nnn` `CALL nnn` (R163). -/
  | call (nnn : Addr)
  /-- `3xkk` `SE Vx, kk` (R164). -/
  | seImm (x : Nibble) (kk : Byte)
  /-- `4xkk` `SNE Vx, kk` (R165). -/
  | sneImm (x : Nibble) (kk : Byte)
  /-- `5xy0` `SE Vx, Vy` (R166). -/
  | seReg (x y : Nibble)
  /-- `6xkk` `LD Vx, kk` (42_alu.md R181). -/
  | ldImm (x : Nibble) (kk : Byte)
  /-- `7xkk` `ADD Vx, kk` (R182). -/
  | addImm (x : Nibble) (kk : Byte)
  /-- `8xy0` `LD Vx, Vy` (R183). -/
  | ldReg (x y : Nibble)
  /-- `8xy1` `OR Vx, Vy` (R184). -/
  | orReg (x y : Nibble)
  /-- `8xy2` `AND Vx, Vy` (R185). -/
  | andReg (x y : Nibble)
  /-- `8xy3` `XOR Vx, Vy` (R186). -/
  | xorReg (x y : Nibble)
  /-- `8xy4` `ADD Vx, Vy` (R187). -/
  | addReg (x y : Nibble)
  /-- `8xy5` `SUB Vx, Vy` (R188). -/
  | subReg (x y : Nibble)
  /-- `8xy6` `SHR Vx`; `y` is decoded and unused (R189, 30_encoding.md R98). -/
  | shr (x y : Nibble)
  /-- `8xy7` `SUBN Vx, Vy` (R190). -/
  | subnReg (x y : Nibble)
  /-- `8xyE` `SHL Vx`; `y` is decoded and unused (R191, 30_encoding.md R98). -/
  | shl (x y : Nibble)
  /-- `9xy0` `SNE Vx, Vy` (41_control_flow.md R167). -/
  | sneReg (x y : Nibble)
  /-- `Annn` `LD I, nnn` (43_index_memory.md R211). -/
  | ldI (nnn : Addr)
  /-- `Bnnn` `JP V0, nnn` (41_control_flow.md R168). -/
  | jpV0 (nnn : Addr)
  /-- `Cxkk` `RND Vx, kk` (42_alu.md R192). -/
  | rnd (x : Nibble) (kk : Byte)
  /-- `Dxyn` `DRW Vx, Vy, n` (44_display.md R232). -/
  | drw (x y n : Nibble)
  /-- `Ex9E` `SKP Vx` (45_keypad_timers.md R251). -/
  | skp (x : Nibble)
  /-- `ExA1` `SKNP Vx` (R252). -/
  | sknp (x : Nibble)
  /-- `Fx07` `LD Vx, DT` (R253). -/
  | getDT (x : Nibble)
  /-- `Fx0A` `LD Vx, K` (R254). -/
  | waitKey (x : Nibble)
  /-- `Fx15` `LD DT, Vx` (R255). -/
  | setDT (x : Nibble)
  /-- `Fx18` `LD ST, Vx` (R256). -/
  | setST (x : Nibble)
  /-- `Fx1E` `ADD I, Vx` (43_index_memory.md R212). -/
  | addI (x : Nibble)
  /-- `Fx29` `LD F, Vx` (R213). -/
  | ldF (x : Nibble)
  /-- `Fx33` `LD B, Vx` (R214). -/
  | bcd (x : Nibble)
  /-- `Fx55` `LD [I], Vx` (R215). -/
  | storeRegs (x : Nibble)
  /-- `Fx65` `LD Vx, [I]` (R216). -/
  | loadRegs (x : Nibble)
  deriving DecidableEq, Repr

/-- The six formats of 30_encoding.md R91. -/
inductive Format where
  | FIX | NNN | XKK | XY | XYN | X
  deriving DecidableEq, Repr

/-- The mask of a format's fixed bits (30_encoding.md R96, column `mask`). -/
def Format.mask : Format → Word
  | .FIX => 0xFFFF
  | .NNN => 0xF000
  | .XKK => 0xF000
  | .XY => 0xF00F
  | .XYN => 0xF000
  | .X => 0xF0FF

/-- The 34 rows of the opcode map, each without its operands. -/
inductive Row where
  | cls | ret | jp | call | seImm | sneImm | seReg | ldImm | addImm
  | ldReg | orReg | andReg | xorReg | addReg | subReg | shr | subnReg | shl
  | sneReg | ldI | jpV0 | rnd | drw | skp | sknp
  | getDT | waitKey | setDT | setST | addI | ldF | bcd | storeRegs | loadRegs
  deriving DecidableEq, Repr

/-- The format of a row (30_encoding.md R96, column `format`). -/
def Row.format : Row → Format
  | .cls | .ret => .FIX
  | .jp | .call | .ldI | .jpV0 => .NNN
  | .seImm | .sneImm | .ldImm | .addImm | .rnd => .XKK
  | .seReg | .ldReg | .orReg | .andReg | .xorReg | .addReg | .subReg
  | .shr | .subnReg | .shl | .sneReg => .XY
  | .drw => .XYN
  | .skp | .sknp | .getDT | .waitKey | .setDT | .setST | .addI | .ldF
  | .bcd | .storeRegs | .loadRegs => .X

/-- The fixed bits of a row (30_encoding.md R96, column `match`). -/
def Row.code : Row → Word
  | .cls => 0x00E0
  | .ret => 0x00EE
  | .jp => 0x1000
  | .call => 0x2000
  | .seImm => 0x3000
  | .sneImm => 0x4000
  | .seReg => 0x5000
  | .ldImm => 0x6000
  | .addImm => 0x7000
  | .ldReg => 0x8000
  | .orReg => 0x8001
  | .andReg => 0x8002
  | .xorReg => 0x8003
  | .addReg => 0x8004
  | .subReg => 0x8005
  | .shr => 0x8006
  | .subnReg => 0x8007
  | .shl => 0x800E
  | .sneReg => 0x9000
  | .ldI => 0xA000
  | .jpV0 => 0xB000
  | .rnd => 0xC000
  | .drw => 0xD000
  | .skp => 0xE09E
  | .sknp => 0xE0A1
  | .getDT => 0xF007
  | .waitKey => 0xF00A
  | .setDT => 0xF015
  | .setST => 0xF018
  | .addI => 0xF01E
  | .ldF => 0xF029
  | .bcd => 0xF033
  | .storeRegs => 0xF055
  | .loadRegs => 0xF065

/-- The row of an instruction. -/
def Instr.row : Instr → Row
  | .cls => .cls
  | .ret => .ret
  | .jp _ => .jp
  | .call _ => .call
  | .seImm _ _ => .seImm
  | .sneImm _ _ => .sneImm
  | .seReg _ _ => .seReg
  | .ldImm _ _ => .ldImm
  | .addImm _ _ => .addImm
  | .ldReg _ _ => .ldReg
  | .orReg _ _ => .orReg
  | .andReg _ _ => .andReg
  | .xorReg _ _ => .xorReg
  | .addReg _ _ => .addReg
  | .subReg _ _ => .subReg
  | .shr _ _ => .shr
  | .subnReg _ _ => .subnReg
  | .shl _ _ => .shl
  | .sneReg _ _ => .sneReg
  | .ldI _ => .ldI
  | .jpV0 _ => .jpV0
  | .rnd _ _ => .rnd
  | .drw _ _ _ => .drw
  | .skp _ => .skp
  | .sknp _ => .sknp
  | .getDT _ => .getDT
  | .waitKey _ => .waitKey
  | .setDT _ => .setDT
  | .setST _ => .setST
  | .addI _ => .addI
  | .ldF _ => .ldF
  | .bcd _ => .bcd
  | .storeRegs _ => .storeRegs
  | .loadRegs _ => .loadRegs

end Sys2Proof
end

