-- ==== Sys2Proof/WellFormed.lean ====
section
/-! DEFINITION. Well-formed instruction terms. A term of `Instr` carries every operand at its field's own
width, so each one is an instruction of the hardware (spec/30_encoding.md R93: "every value legal").
What can be ill-formed is an instruction as an assembler or a test writes it (R104): a row of the opcode
map and plain numbers. `RawInstr` is that term, `RawInstr.check` names what is wrong with one, and
`RawInstr.toInstr` is the instruction a well-formed one stands for. -/

namespace Sys2Proof

/-- A row of the opcode map with its operands as numbers; an operand the row's format lacks is 0. -/
structure RawInstr where
  row : Row
  x : Nat := 0
  y : Nat := 0
  n : Nat := 0
  kk : Nat := 0
  nnn : Nat := 0
  deriving DecidableEq, Repr

/-- What is wrong with a `RawInstr`: the operand that is out of its range, or that the format lacks. -/
inductive IllFormed where
  | x | y | n | kk | nnn
  deriving DecidableEq, Repr

/-- Whether a format has the field `x` (R91). -/
def Format.hasX : Format → Bool
  | .XKK | .XY | .XYN | .X => true
  | .FIX | .NNN => false

/-- Whether a format has the field `y` (R91). -/
def Format.hasY : Format → Bool
  | .XY | .XYN => true
  | .FIX | .NNN | .XKK | .X => false

/-- Whether a format has the field `n` (R91). -/
def Format.hasN : Format → Bool
  | .XYN => true
  | .FIX | .NNN | .XKK | .XY | .X => false

/-- Whether a format has the field `kk` (R91). -/
def Format.hasKK : Format → Bool
  | .XKK => true
  | .FIX | .NNN | .XY | .XYN | .X => false

/-- Whether a format has the field `nnn` (R91). -/
def Format.hasNNN : Format → Bool
  | .NNN => true
  | .FIX | .XKK | .XY | .XYN | .X => false

/-- The first operand out of range: `x`, `y`, `n` are 0 to 15, `kk` 0 to 255, `nnn` 0 to 0xFFF
(R93, R104), and an operand the format lacks is not given. -/
def RawInstr.check (r : RawInstr) : Option IllFormed :=
  if (if r.row.format.hasX then 16 else 1) ≤ r.x then some .x
  else if (if r.row.format.hasY then 16 else 1) ≤ r.y then some .y
  else if (if r.row.format.hasN then 16 else 1) ≤ r.n then some .n
  else if (if r.row.format.hasKK then 256 else 1) ≤ r.kk then some .kk
  else if (if r.row.format.hasNNN then 4096 else 1) ≤ r.nnn then some .nnn
  else none

/-- A `RawInstr` that stands for an instruction. -/
def RawInstr.WellFormed (r : RawInstr) : Bool := r.check.isNone

/-- The instruction of a row with the given fields. -/
def Row.instr (r : Row) (x y n : Nibble) (kk : Byte) (nnn : Addr) : Instr :=
  match r with
  | .cls => .cls
  | .ret => .ret
  | .jp => .jp nnn
  | .call => .call nnn
  | .seImm => .seImm x kk
  | .sneImm => .sneImm x kk
  | .seReg => .seReg x y
  | .ldImm => .ldImm x kk
  | .addImm => .addImm x kk
  | .ldReg => .ldReg x y
  | .orReg => .orReg x y
  | .andReg => .andReg x y
  | .xorReg => .xorReg x y
  | .addReg => .addReg x y
  | .subReg => .subReg x y
  | .shr => .shr x y
  | .subnReg => .subnReg x y
  | .shl => .shl x y
  | .sneReg => .sneReg x y
  | .ldI => .ldI nnn
  | .jpV0 => .jpV0 nnn
  | .rnd => .rnd x kk
  | .drw => .drw x y n
  | .skp => .skp x
  | .sknp => .sknp x
  | .getDT => .getDT x
  | .waitKey => .waitKey x
  | .setDT => .setDT x
  | .setST => .setST x
  | .addI => .addI x
  | .ldF => .ldF x
  | .bcd => .bcd x
  | .storeRegs => .storeRegs x
  | .loadRegs => .loadRegs x

/-- The instruction a well-formed `RawInstr` stands for. -/
def RawInstr.toInstr (r : RawInstr) : Option Instr :=
  if r.WellFormed then
    some (r.row.instr (.ofNat 4 r.x) (.ofNat 4 r.y) (.ofNat 4 r.n) (.ofNat 8 r.kk) (.ofNat 12 r.nnn))
  else none

end Sys2Proof
end

