-- ==== Sys2Proof/Decode.lean ====
section
/-! DEFINITION. The decoder and the encoder (spec/30_encoding.md). The decoder follows the dispatch of
R94 and R95 on nibbles; that it agrees with the masks of the opcode map R96 is an obligation. -/

namespace Sys2Proof

/-- What the decoder answers (R103): an instruction with its fields, or `Unknown(w)`. -/
inductive Decoded where
  | instr (i : Instr)
  | unknown (w : Word)
  deriving DecidableEq, Repr

/-- `w[15:12]`, the primary opcode nibble (R91). -/
def fieldOp (w : Word) : Nibble := w.extractLsb' 12 4

/-- `x = w[11:8]` (R92). -/
def fieldX (w : Word) : Nibble := w.extractLsb' 8 4

/-- `y = w[7:4]` (R92). -/
def fieldY (w : Word) : Nibble := w.extractLsb' 4 4

/-- `n = w[3:0]` (R92; 90_conflicts.md C2). -/
def fieldN (w : Word) : Nibble := w.extractLsb' 0 4

/-- `kk = w[7:0]` (R92). -/
def fieldKK (w : Word) : Byte := w.extractLsb' 0 8

/-- `nnn = w[11:0]` (R92). -/
def fieldNNN (w : Word) : Addr := w.extractLsb' 0 12

/-- Group 0: the whole word is 0x00E0 or 0x00EE (R95, R100). -/
def decodeGroup0 (w : Word) : Option Row :=
  if w = 0x00E0 then some .cls
  else if w = 0x00EE then some .ret
  else none

/-- Group 8: the low nibble selects (R95). -/
def decodeGroup8 (n : Nibble) : Option Row :=
  if n = 0x0 then some .ldReg
  else if n = 0x1 then some .orReg
  else if n = 0x2 then some .andReg
  else if n = 0x3 then some .xorReg
  else if n = 0x4 then some .addReg
  else if n = 0x5 then some .subReg
  else if n = 0x6 then some .shr
  else if n = 0x7 then some .subnReg
  else if n = 0xE then some .shl
  else none

/-- Group E: the low byte selects, all eight bits compared (R95). -/
def decodeGroupE (kk : Byte) : Option Row :=
  if kk = 0x9E then some .skp
  else if kk = 0xA1 then some .sknp
  else none

/-- Group F: the low byte selects, all eight bits compared (R95). -/
def decodeGroupF (kk : Byte) : Option Row :=
  if kk = 0x07 then some .getDT
  else if kk = 0x0A then some .waitKey
  else if kk = 0x15 then some .setDT
  else if kk = 0x18 then some .setST
  else if kk = 0x1E then some .addI
  else if kk = 0x29 then some .ldF
  else if kk = 0x33 then some .bcd
  else if kk = 0x55 then some .storeRegs
  else if kk = 0x65 then some .loadRegs
  else none

/-- The row of a word: primary dispatch on `w[15:12]` (R94), then the secondary decode of R95. The low
nibble of groups 5 and 9 must be 0 (R97, 90_conflicts.md C6). -/
def decodeRow (w : Word) : Option Row :=
  if fieldOp w = 0x0 then decodeGroup0 w
  else if fieldOp w = 0x1 then some .jp
  else if fieldOp w = 0x2 then some .call
  else if fieldOp w = 0x3 then some .seImm
  else if fieldOp w = 0x4 then some .sneImm
  else if fieldOp w = 0x5 then (if fieldN w = 0x0 then some .seReg else none)
  else if fieldOp w = 0x6 then some .ldImm
  else if fieldOp w = 0x7 then some .addImm
  else if fieldOp w = 0x8 then decodeGroup8 (fieldN w)
  else if fieldOp w = 0x9 then (if fieldN w = 0x0 then some .sneReg else none)
  else if fieldOp w = 0xA then some .ldI
  else if fieldOp w = 0xB then some .jpV0
  else if fieldOp w = 0xC then some .rnd
  else if fieldOp w = 0xD then some .drw
  else if fieldOp w = 0xE then decodeGroupE (fieldKK w)
  else decodeGroupF (fieldKK w)

/-- The decoder (R103): "a total function from 16-bit words to the 34 instruction variants with their
fields, plus the variant `Unknown(w)`". -/
def decodeWord (w : Word) : Decoded :=
  match decodeRow w with
  | some r => .instr (r.instr (fieldX w) (fieldY w) (fieldN w) (fieldKK w) (fieldNNN w))
  | none => .unknown w

/-- What decoding bytes can be rejected for: fewer than the two bytes of a word (R90), or an unknown
opcode, which names its word (R99). -/
inductive DecodeError where
  | truncated
  | unknownOpcode (w : Word)
  deriving DecidableEq, Repr

/-- Decoding the first instruction of a byte sequence, high byte first (R90, 20_memory.md R60), with
the bytes that follow it. -/
def decodeBytes : List Byte → Except DecodeError (Instr × List Byte)
  | hi :: lo :: rest =>
    match decodeWord (hi ++ lo) with
    | .instr i => .ok (i, rest)
    | .unknown w => .error (.unknownOpcode w)
  | _ => .error .truncated

/-- A field at bit 8 (R106 `x << 8`). -/
def placeX (x : Nibble) : Word := x.setWidth 16 <<< 8

/-- A field at bit 4 (R106 `y << 4`). -/
def placeY (y : Nibble) : Word := y.setWidth 16 <<< 4

/-- The word of an instruction (R106): `match | (x << 8) | (y << 4) | n`, `match | (x << 8) | kk`,
`match | nnn`, `match | (x << 8)` or `match`, by format. -/
def encode (i : Instr) : Word :=
  match i with
  | .cls => i.row.code
  | .ret => i.row.code
  | .jp nnn => i.row.code ||| nnn.setWidth 16
  | .call nnn => i.row.code ||| nnn.setWidth 16
  | .seImm x kk => i.row.code ||| placeX x ||| kk.setWidth 16
  | .sneImm x kk => i.row.code ||| placeX x ||| kk.setWidth 16
  | .seReg x y => i.row.code ||| placeX x ||| placeY y
  | .ldImm x kk => i.row.code ||| placeX x ||| kk.setWidth 16
  | .addImm x kk => i.row.code ||| placeX x ||| kk.setWidth 16
  | .ldReg x y => i.row.code ||| placeX x ||| placeY y
  | .orReg x y => i.row.code ||| placeX x ||| placeY y
  | .andReg x y => i.row.code ||| placeX x ||| placeY y
  | .xorReg x y => i.row.code ||| placeX x ||| placeY y
  | .addReg x y => i.row.code ||| placeX x ||| placeY y
  | .subReg x y => i.row.code ||| placeX x ||| placeY y
  | .shr x y => i.row.code ||| placeX x ||| placeY y
  | .subnReg x y => i.row.code ||| placeX x ||| placeY y
  | .shl x y => i.row.code ||| placeX x ||| placeY y
  | .sneReg x y => i.row.code ||| placeX x ||| placeY y
  | .ldI nnn => i.row.code ||| nnn.setWidth 16
  | .jpV0 nnn => i.row.code ||| nnn.setWidth 16
  | .rnd x kk => i.row.code ||| placeX x ||| kk.setWidth 16
  | .drw x y n => i.row.code ||| placeX x ||| placeY y ||| n.setWidth 16
  | .skp x => i.row.code ||| placeX x
  | .sknp x => i.row.code ||| placeX x
  | .getDT x => i.row.code ||| placeX x
  | .waitKey x => i.row.code ||| placeX x
  | .setDT x => i.row.code ||| placeX x
  | .setST x => i.row.code ||| placeX x
  | .addI x => i.row.code ||| placeX x
  | .ldF x => i.row.code ||| placeX x
  | .bcd x => i.row.code ||| placeX x
  | .storeRegs x => i.row.code ||| placeX x
  | .loadRegs x => i.row.code ||| placeX x

/-- The bytes of a word as memory holds them, high byte first (R90, R106). -/
def wordBytes (w : Word) : List Byte := [w.extractLsb' 8 8, w.extractLsb' 0 8]

/-- The bytes of an instruction as memory holds them. -/
def encodeBytes (i : Instr) : List Byte := wordBytes (encode i)

/-- The word of an instruction whose first `nbits` bits are `w`, every later bit being 0. -/
def tableWord (nbits w : Nat) : Word := BitVec.ofNat 16 (w % 2 ^ nbits)

/-- The instruction the decoder reads from an instruction whose bits are `w`, numbered as
spec/opcode_table.json numbers them: the 16-bit word is laid out high byte first and decoded. A row
longer than one word does not exist (R102), so more than 16 bits answer `none`. Log entry 15. -/
def decodeTableWord (nbits w : Nat) : Option Instr :=
  if nbits ≤ 16 then
    match decodeBytes (wordBytes (tableWord nbits w)) with
    | .ok (i, []) => some i
    | .ok (_, _ :: _) => none
    | .error _ => none
  else none

end Sys2Proof
end

