-- ==== Sys2Proof/Config.lean ====
section
/-! DEFINITION. The open parameters of spec/00_scope.md R7, and the one free value of the machine.
The values this model takes (the defaults of R7) are `config` in Machine/Defaults.lean. -/

namespace Sys2Proof

/-- How a data address beyond 0xFFF is formed. R7: `wrap12` is the only value defined (decision D7). -/
inductive DataAddrPolicy where
  | wrap12
  deriving DecidableEq, Repr

/-- The open parameters of R7. -/
structure Config where
  /-- `FONT`: byte `5*d + r` is row `r` of the glyph of digit `d` (10_state.md R41, decision D10). -/
  font : Vector Byte 80
  /-- `FX1E_SETS_VF`: whether `Fx1E` also writes `VF` (43_index_memory.md R212, decision D6). -/
  fx1eSetsVF : Bool
  /-- `DATA_ADDR_POLICY` (20_memory.md R66, decision D7). -/
  dataAddrPolicy : DataAddrPolicy
  /-- `PC_MIN`: the lowest address an instruction is fetched from (10_state.md R27, decision D2). -/
  pcMin : Word
  deriving DecidableEq, Repr

/-- FREE VALUE. The random byte `rnd` of the `n`-th draw (40_cycle_and_host.md R135: "Nothing is assumed
of it: not a distribution, not a generator, not independence between steps"). It has no body: a
statement about `Cxkk` holds whatever the byte is. `State.draws` counts the draws, so that each
`Cxkk` of a run reads a byte of its own. Log entry 1. -/
opaque Config.rnd : Nat → Byte

end Sys2Proof
end

