-- ==== Sys2Proof/Machine/Defaults.lean ====
section
/-! DEFINITION. The fixed parameters of spec/00_scope.md R6 that are numbers the rules name, and the
default values of the open parameters of R7, which this model takes. -/

namespace Sys2Proof

/-- R6 `MEM_BYTES`. -/
abbrev memBytes : Nat := 4096
/-- R6 `FONT_BASE`: the first font address (10_state.md R41). -/
abbrev fontBase : Nat := 0x050
/-- The font's length in bytes: 16 glyphs of `GLYPH_BYTES` = 5 bytes (R6, R41). -/
abbrev fontBytes : Nat := 80
/-- R6 `PROG_BASE`: where `load` places the first byte, and the reset value of `pc`. -/
abbrev progBase : Nat := 0x200
/-- R6 `PROG_MAX_BYTES`. -/
abbrev progMaxBytes : Nat := 3584
/-- The highest address an instruction is fetched from (10_state.md R27). -/
abbrev lastFetch : Nat := 0x0FFE
/-- R6 `PC_STEP`. -/
abbrev pcStep : Word := 2

/-- Glyphs 0 to 3 of the default `FONT` (10_state.md R41). -/
def fontGlyphs0to3 : List Byte :=
  [0xF0, 0x90, 0x90, 0x90, 0xF0] ++ [0x20, 0x60, 0x20, 0x20, 0x70] ++
  [0xF0, 0x10, 0xF0, 0x80, 0xF0] ++ [0xF0, 0x10, 0xF0, 0x10, 0xF0]

/-- Glyphs 4 to 7 of the default `FONT` (10_state.md R41). -/
def fontGlyphs4to7 : List Byte :=
  [0x90, 0x90, 0xF0, 0x10, 0x10] ++ [0xF0, 0x80, 0xF0, 0x10, 0xF0] ++
  [0xF0, 0x80, 0xF0, 0x90, 0xF0] ++ [0xF0, 0x10, 0x20, 0x40, 0x40]

/-- Glyphs 8 to B of the default `FONT` (10_state.md R41). -/
def fontGlyphs8toB : List Byte :=
  [0xF0, 0x90, 0xF0, 0x90, 0xF0] ++ [0xF0, 0x90, 0xF0, 0x10, 0xF0] ++
  [0xF0, 0x90, 0xF0, 0x90, 0x90] ++ [0xE0, 0x90, 0xE0, 0x90, 0xE0]

/-- Glyphs C to F of the default `FONT` (10_state.md R41). -/
def fontGlyphsCtoF : List Byte :=
  [0xF0, 0x80, 0x80, 0x80, 0xF0] ++ [0xE0, 0x90, 0x90, 0x90, 0xE0] ++
  [0xF0, 0x80, 0xF0, 0x80, 0xF0] ++ [0xF0, 0x80, 0xF0, 0x80, 0x80]

/-- The default `FONT` (10_state.md R41, decision D10). UNVERIFIED: the spec marks the bytes as general
knowledge, no source gives them. Log entry 5. -/
def defaultFont : Vector Byte 80 :=
  ⟨(fontGlyphs0to3 ++ fontGlyphs4to7 ++ fontGlyphs8toB ++ fontGlyphsCtoF).toArray, by decide⟩

/-- The defaults of R7: `FONT` (D10), `FX1E_SETS_VF` false (D6), `wrap12` (D7), `PC_MIN` 0x0200 (D2).
Log entries 5 and 6. -/
def config : Config where
  font := defaultFont
  fx1eSetsVF := false
  dataAddrPolicy := .wrap12
  pcMin := 0x0200

end Sys2Proof
end

