-- ==== Sys2Proof/Machine/State.lean ====
section
/-! DEFINITION. The whole state of the machine (spec/10_state.md), its reset value (R45), and the reasons
a step can stop. The names of the fields are the spec's. -/

namespace Sys2Proof.Machine

/-- Memory as (address, byte) pairs in canonical form (`Memory.wf` in Machine/Ops.lean). An address that
is not listed reads as its reset byte (`Memory.background`). -/
abbrev Memory := List Host.Cell

/-- The state of spec/10_state.md, R20 to R41. -/
structure State where
  /-- The general registers `V[0]` to `V[15]`; `V[15]` is the flag register `VF` (R20, R23). -/
  V : Vector Byte 16
  /-- The index register (R32). -/
  I : Word
  /-- The program counter (R25). -/
  pc : Word
  /-- The stack pointer: the number of entries in use, 0 to 16 (R29). -/
  sp : Fin 17
  /-- The return stack (R28). -/
  Stack : Vector Word 16
  /-- The delay timer (R34). -/
  DT : Byte
  /-- The sound timer (R35). -/
  ST : Byte
  /-- The display: row `py` holds the 64 one-bit pixels of that row, pixel `px` in bit `px` (R36). -/
  Disp : Vector (BitVec 64) 32
  /-- The keypad levels, `true` is down (R37). -/
  Key : Vector Bool 16
  /-- The key-wait flag (R38). -/
  waiting : Bool
  /-- The register that the awaited key goes to (R39). -/
  waitReg : Nibble
  /-- The 4096 bytes of memory (R40). -/
  Mem : Memory
  /-- THE MODEL'S OWN FIELD: how many random bytes have been drawn (40_cycle_and_host.md R135), the
  index of the next free value `Config.rnd`. Log entry 1. -/
  draws : Nat
  deriving DecidableEq, Repr

/-- The fatal errors of 60_exceptions.md R270. Each stops the step with no change of state (R274);
stopping there is safe, since the hardware's step has no effect either. -/
inductive Fault where
  /-- Raised by `2nnn` when `sp = 16` (R271). Safe. -/
  | stackOverflow
  /-- Raised by `00EE` when `sp = 0` (R272). Safe. -/
  | stackUnderflow
  /-- Raised by a step not in key wait whose `pc` is outside the fetch range (R273). Safe. -/
  | pcOutOfRange
  deriving DecidableEq, Repr

/-- The refusals. No meaning of this model refuses: every instruction is modelled. -/
inductive Refusal where
  /-- An instruction without a meaning; raised by no arm of `exec` now. Safe. -/
  | notModelled (mnemonic : String)
  deriving DecidableEq, Repr

/-- The state after reset (10_state.md R45, 70_reset_and_hazards.md R310): everything zero, `pc` at
0x0200, memory at its reset contents (nothing listed). `draws` is the model's own: DESIGN CHOICE 0,
log entry 1. -/
def State.reset : State where
  V := Vector.replicate 16 0
  I := 0
  pc := 0x0200
  sp := 0
  Stack := Vector.replicate 16 0
  DT := 0
  ST := 0
  Disp := Vector.replicate 32 0
  Key := Vector.replicate 16 false
  waiting := false
  waitReg := 0
  Mem := []
  draws := 0

end Sys2Proof.Machine
end

