-- ==== Sys2Proof/Machine/Ops.lean ====
section
/-! DEFINITION. The shared operations over memory, registers, stack, display and keypad
(spec/00_scope.md R10, R11), raising a fault (R12), and the cycle of one step
(spec/40_cycle_and_host.md R121). -/

namespace Sys2Proof.Machine

/-- What an instruction or a step answers. -/
abbrev Result := Host.Outcome State Fault Refusal

/-! ### Faults -/

/-- Taking an exception, in full (00_scope.md R12, 60_exceptions.md R274, R282): the step ends with the
named error and changes nothing. No register saves anything, no mode changes, `pc` goes nowhere, and
there is no return from it (R287). -/
def raise (f : Fault) : Result := .fault f

/-! ### Memory -/

/-- The reset contents of memory for a font (10_state.md R45): `FONT` at 0x050 to 0x09F, else 0x00. -/
def resetByte (font : Vector Byte 80) (a : Nat) : Byte :=
  if h : a - fontBase < fontBytes then
    (if fontBase ≤ a then font[a - fontBase] else 0)
  else 0

/-- What an address that memory does not list reads as: its reset contents. -/
def Memory.background (a : Nat) : Byte := resetByte config.font a

/-- The byte at an address. -/
def Memory.read : Memory → Nat → Byte
  | [], a => Memory.background a
  | (c, v) :: m, a => if a = c then v else Memory.read m a

/-- The memory with an address no longer listed. -/
def Memory.erase : Memory → Nat → Memory
  | [], _ => []
  | (c, v) :: m, a => if a = c then Memory.erase m a else (c, v) :: Memory.erase m a

/-- The memory with a byte put where its address belongs, not listed where it is the reset byte. -/
def Memory.put : Memory → Nat → Byte → Memory
  | [], a, b => if b = Memory.background a then [] else [(a, b)]
  | (c, v) :: m, a, b =>
    if a < c then (if b = Memory.background a then (c, v) :: m else (a, b) :: (c, v) :: m)
    else (c, v) :: Memory.put m a b

/-- Storing a byte: its address is listed with the byte, or not listed where the byte is the address's
reset byte, so that equal memories stay equal lists. -/
def Memory.write (m : Memory) (a : Nat) (b : Byte) : Memory := (m.erase a).put a b

/-- The canonical form from an address up: addresses rise strictly and lie in memory, and no entry
equals the reset contents. -/
def Memory.wfFrom : Nat → Memory → Bool
  | _, [] => true
  | lo, (c, v) :: m =>
    decide (lo ≤ c) && decide (c < memBytes) && decide (v ≠ Memory.background c)
      && Memory.wfFrom (c + 1) m

/-- The canonical form of memory. -/
def Memory.wf (m : Memory) : Bool := Memory.wfFrom 0 m

/-- `MemRead(a, 1)` (00_scope.md R11). -/
def State.memRead (s : State) (a : Addr) : Byte := s.Mem.read a.toNat

/-- `MemWrite(a, 1, b)` (00_scope.md R11). -/
def State.memWrite (s : State) (a : Addr) (b : Byte) : State :=
  { s with Mem := s.Mem.write a.toNat b }

/-! ### Registers -/

/-- `V[x]` (00_scope.md R10). -/
def State.readV (s : State) (x : Nibble) : Byte := s.V[x.toNat]'x.isLt

/-- `V[x] <- b` (00_scope.md R10). -/
def State.writeV (s : State) (x : Nibble) (b : Byte) : State :=
  { s with V := s.V.set x.toNat b x.isLt }

/-- `V[0xF] <- f` (10_state.md R23). -/
def State.writeVF (s : State) (f : Byte) : State := s.writeV 0xF f

/-- `I <- w`. -/
def State.writeI (s : State) (w : Word) : State := { s with I := w }

/-- `DT <- b`. -/
def State.writeDT (s : State) (b : Byte) : State := { s with DT := b }

/-- `ST <- b`. -/
def State.writeST (s : State) (b : Byte) : State := { s with ST := b }

/-- `pc <- target` (00_scope.md R10). -/
def State.writePc (s : State) (target : Word) : State := { s with pc := target }

/-- The advance `pc <- pc + 2` before an instruction's own effect (40_cycle_and_host.md R124). -/
def State.advance (s : State) : State := s.writePc (s.pc + pcStep)

/-- A skip, taken when `c` (00_scope.md R14): `pc <- pc + 2` on top of the advance. -/
def State.skipIf (s : State) (c : Bool) : State := if c then s.writePc (s.pc + pcStep) else s

/-- A draw of the random byte (40_cycle_and_host.md R135): the next one is another free value. -/
def State.nextDraw (s : State) : State := { s with draws := s.draws + 1 }

/-! ### Stack -/

/-- `Stack[sp] <- w; sp <- sp + 1` (10_state.md R30). At `sp = 16` nothing is written; `2nnn` has
raised `StackOverflow` before. -/
def State.push (s : State) (w : Word) : State :=
  if h : s.sp.val < 16 then
    { s with Stack := s.Stack.set s.sp.val w h, sp := ⟨s.sp.val + 1, by omega⟩ }
  else s

/-- The entry a pop reads: `Stack[sp - 1]` (10_state.md R30). -/
def State.top (s : State) : Word :=
  s.Stack[s.sp.val - 1]'(by have := s.sp.isLt; omega)

/-- `sp <- sp - 1; pc <- Stack[sp]` (41_control_flow.md R161). The entry keeps its bits (10_state.md
R31). At `sp = 0` this is not reached; `00EE` has raised `StackUnderflow` before. -/
def State.popPc (s : State) : State :=
  { s with sp := ⟨s.sp.val - 1, by have := s.sp.isLt; omega⟩, pc := s.top }

/-! ### Display -/

/-- `Disp[px, py]` (10_state.md R36). -/
def State.pixel (s : State) (px : Fin 64) (py : Fin 32) : Bool :=
  (s.Disp[py.val]'py.isLt).getLsbD px.val

/-- `Disp[px, py] <- Disp[px, py] xor 1` (44_display.md R232). -/
def State.togglePixel (s : State) (px : Fin 64) (py : Fin 32) : State :=
  { s with
    Disp := s.Disp.set py.val ((s.Disp[py.val]'py.isLt) ^^^ BitVec.twoPow 64 px.val) py.isLt }

/-- All pixels off (44_display.md R230). -/
def State.clearDisp (s : State) : State := { s with Disp := Vector.replicate 32 0 }

/-! ### Keypad and key wait -/

/-- `Key[k]` (10_state.md R37). -/
def State.keyDown (s : State) (k : Nibble) : Bool := s.Key[k.toNat]'k.isLt

/-- `Key[k] <- down` (40_cycle_and_host.md R130). -/
def State.writeKey (s : State) (k : Nibble) (down : Bool) : State :=
  { s with Key := s.Key.set k.toNat down k.isLt }

/-- `waiting <- 1; wait_reg <- x` (45_keypad_timers.md R254). -/
def State.beginWait (s : State) (x : Nibble) : State := { s with waiting := true, waitReg := x }

/-- `waiting <- 0` (40_cycle_and_host.md R130). -/
def State.endWait (s : State) : State := { s with waiting := false }

/-! ### Fetch and the cycle of a step -/

/-- `Fetch16(a)` (20_memory.md R60): big-endian. -/
def State.fetch16 (s : State) (a : Addr) : Word := s.memRead a ++ s.memRead (a + 1)

/-- `pc[11:0]` (40_cycle_and_host.md R121 line 3). -/
def State.fetchAddr (s : State) : Addr := s.pc.setWidth 12

/-- The word that a step of the state fetches. -/
def State.fetch (s : State) : Word := s.fetch16 s.fetchAddr

/-- The fetch range from a lower bound (10_state.md R27): `PC_MIN <= pc <= 0x0FFE`. -/
def inFetchRange (pcMin pc : Word) : Bool :=
  decide (pcMin.toNat ≤ pc.toNat) && decide (pc.toNat ≤ lastFetch)

/-- Whether a step of the state may fetch: the range with the `PC_MIN` of the configuration. -/
def State.fetchable (s : State) : Bool := inFetchRange config.pcMin s.pc

/-- An unknown opcode (40_cycle_and_host.md R127): only `pc` changes. The event it reports is
`State.event` in Machine/Transactions.lean. -/
def unknownOpcode (_w : Word) (s : State) : Result := .next s.advance

/-- What a decoded word does (R121 lines 5 to 7), for a given meaning of the instructions. -/
def runDecoded (run : Instr → State → Result) (d : Decoded) (s : State) : Result :=
  match d with
  | .instr i => run i s
  | .unknown w => unknownOpcode w s

/-- The cycle of R121, for a given meaning of the instructions: key wait, range check, fetch, decode,
execute. The stack checks and the advance (lines 5 and 6) stand in each meaning. -/
def cycle (run : Instr → State → Result) (s : State) : Result :=
  if s.waiting then .next s
  else if s.fetchable then runDecoded run (decodeWord s.fetch) s
  else raise .pcOutOfRange

end Sys2Proof.Machine
end

