-- ==== Sys2Proof/Machine/Operands.lean ====
section
/-! DEFINITION. The operand forms: immediates (spec/30_encoding.md R93), the low nibble of a register as a
key number or a digit (spec/45_keypad_timers.md R250, spec/43_index_memory.md R213), the effective data
address (spec/20_memory.md R66) and the decimal digits of a byte (spec/43_index_memory.md R214). -/

namespace Sys2Proof.Machine

/-- `zext_16(nnn)` (30_encoding.md R93). -/
def zextAddr (nnn : Addr) : Word := nnn.setWidth 16

/-- `zext_16(b)` of a byte (43_index_memory.md R212, 41_control_flow.md R168). -/
def zextByte (b : Byte) : Word := b.setWidth 16

/-- `b[3:0]`: the digit or key that a register value selects (decisions D8, D9). -/
def lowNibble (b : Byte) : Nibble := b.extractLsb' 0 4

/-- The address that a 16-bit index and an offset form under a policy (decision D7): `wrap12` is
`(I + k) mod 4096`, from the full index. -/
def dataAddr (policy : DataAddrPolicy) (I : Word) (k : Nat) : Addr :=
  match policy with
  | .wrap12 => BitVec.ofNat 12 (I.toNat + k)

/-- `EA(k)` (00_scope.md R11, 20_memory.md R66). -/
def State.ea (s : State) (k : Nat) : Addr := dataAddr config.dataAddrPolicy s.I k

/-- The address of the glyph of a digit: `0x0050 + 5 * d` (43_index_memory.md R213). -/
def glyphAddr (d : Nibble) : Word := BitVec.ofNat 16 (fontBase + 5 * d.toNat)

/-- `v div 100` (R214). -/
def hundreds (v : Byte) : Byte := BitVec.ofNat 8 (v.toNat / 100)

/-- `(v div 10) mod 10` (R214). -/
def tens (v : Byte) : Byte := BitVec.ofNat 8 (v.toNat / 10 % 10)

/-- `v mod 10` (R214). -/
def ones (v : Byte) : Byte := BitVec.ofNat 8 (v.toNat % 10)

/-- The register that the `k`-th byte of a block transfer goes with: `V[k]` (R215, R216). -/
def blockReg (k : Nat) : Nibble := BitVec.ofNat 4 k

end Sys2Proof.Machine
end

