-- ==== Sys2Proof/Machine/Flags.lean ====
section
/-! DEFINITION. The flag computations: every value written to `VF` as a flag is 0x00 or 0x01
(spec/10_state.md R23, R24; spec/42_alu.md R193). -/

namespace Sys2Proof.Machine

/-- A flag bit as the byte written to `VF` (10_state.md R23). -/
def flagByte (c : Bool) : Byte := if c then 0x01 else 0x00

/-- Carry out of 8 bits (42_alu.md R187): `a + b > 255`. -/
def carryFlag (a b : Byte) : Byte := flagByte (decide (255 < a.toNat + b.toNat))

/-- No borrow of `a - b` (R188, R190): `a >= b`. -/
def noBorrowFlag (a b : Byte) : Byte := flagByte (decide (b.toNat ≤ a.toNat))

/-- The bit a right shift loses (R189): `a & 0x01`. -/
def shiftedOutLow (a : Byte) : Byte := a &&& 0x01

/-- The bit a left shift loses (R191): `(a >> 7) & 0x01`. -/
def shiftedOutHigh (a : Byte) : Byte := (a >>> 7) &&& 0x01

/-- The flag of `Fx1E` under `FX1E_SETS_VF = true` (43_index_memory.md R212): `I_old + V[x] > 0x0FFF`. -/
def indexOverflowFlag (I : Word) (b : Byte) : Byte :=
  flagByte (decide (0x0FFF < I.toNat + b.toNat))

end Sys2Proof.Machine
end

