-- ==== Sys2Proof/Machine/Alu.lean ====
section
/-! DEFINITION. Register load, arithmetic, logic, shifts, random (spec/42_alu.md R180 to R193). Effects are
made in the order R180 gives: the later write stands where `x` is 0xF. -/

namespace Sys2Proof.Machine

/-- Result first, flag second (R180: `8xy4`, `8xy5`, `8xy7`). -/
def State.resultThenFlag (s : State) (x : Nibble) (r f : Byte) : State := (s.writeV x r).writeVF f

/-- Flag first, then the operation on the register as the flag write left it (R180: `8xy6`, `8xyE`). -/
def State.flagThenShift (s : State) (x : Nibble) (f : Byte) (op : Byte → Byte) : State :=
  (s.writeVF f).writeV x (op ((s.writeVF f).readV x))

/-- `6xkk` (R181). -/
def execLdImm (x : Nibble) (kk : Byte) (s : State) : Result := .next (s.advance.writeV x kk)

/-- `7xkk` (R182): no flag. -/
def execAddImm (x : Nibble) (kk : Byte) (s : State) : Result :=
  .next (s.advance.writeV x (s.readV x + kk))

/-- `8xy0` (R183). -/
def execLdReg (x y : Nibble) (s : State) : Result := .next (s.advance.writeV x (s.readV y))

/-- `8xy1` (R184): `VF` keeps its value. -/
def execOrReg (x y : Nibble) (s : State) : Result :=
  .next (s.advance.writeV x (s.readV x ||| s.readV y))

/-- `8xy2` (R185). -/
def execAndReg (x y : Nibble) (s : State) : Result :=
  .next (s.advance.writeV x (s.readV x &&& s.readV y))

/-- `8xy3` (R186). -/
def execXorReg (x y : Nibble) (s : State) : Result :=
  .next (s.advance.writeV x (s.readV x ^^^ s.readV y))

/-- `8xy4` (R187). -/
def execAddReg (x y : Nibble) (s : State) : Result :=
  .next (s.advance.resultThenFlag x (s.readV x + s.readV y) (carryFlag (s.readV x) (s.readV y)))

/-- `8xy5` (R188). -/
def execSubReg (x y : Nibble) (s : State) : Result :=
  .next (s.advance.resultThenFlag x (s.readV x - s.readV y) (noBorrowFlag (s.readV x) (s.readV y)))

/-- `8xy6` (R189): `y` is ignored. -/
def execShr (x _y : Nibble) (s : State) : Result :=
  .next (s.advance.flagThenShift x (shiftedOutLow (s.readV x)) (· >>> 1))

/-- `8xy7` (R190): the destination is still `V[x]`. -/
def execSubnReg (x y : Nibble) (s : State) : Result :=
  .next (s.advance.resultThenFlag x (s.readV y - s.readV x) (noBorrowFlag (s.readV y) (s.readV x)))

/-- `8xyE` (R191): `y` is ignored. -/
def execShl (x _y : Nibble) (s : State) : Result :=
  .next (s.advance.flagThenShift x (shiftedOutHigh (s.readV x)) (· <<< 1))

/-- `Cxkk` (R192): the random byte is the free value of this draw (40_cycle_and_host.md R135). -/
def execRnd (x : Nibble) (kk : Byte) (s : State) : Result :=
  .next (s.advance.nextDraw.writeV x (Config.rnd s.draws &&& kk))

end Sys2Proof.Machine
end

