-- ==== Sys2Proof/Machine/Control.lean ====
section
/-! DEFINITION. Control transfer (spec/41_control_flow.md R160 to R168). A meaning is given the state at
the fetch, with `pc` at the instruction; it makes the stack check of 40_cycle_and_host.md R125, then
the advance of R124, then its own effect. -/

namespace Sys2Proof.Machine

/-- `00EE` (R161). -/
def execRet (s : State) : Result :=
  if s.sp.val = 0 then raise .stackUnderflow else .next s.advance.popPc

/-- `1nnn` (R162). -/
def execJp (nnn : Addr) (s : State) : Result := .next (s.advance.writePc (zextAddr nnn))

/-- `2nnn` (R163): the pushed value is the advanced `pc`. -/
def execCall (nnn : Addr) (s : State) : Result :=
  if s.sp.val = 16 then raise .stackOverflow
  else .next ((s.advance.push s.advance.pc).writePc (zextAddr nnn))

/-- `3xkk` (R164). -/
def execSeImm (x : Nibble) (kk : Byte) (s : State) : Result :=
  .next (s.advance.skipIf (s.readV x == kk))

/-- `4xkk` (R165). -/
def execSneImm (x : Nibble) (kk : Byte) (s : State) : Result :=
  .next (s.advance.skipIf (s.readV x != kk))

/-- `5xy0` (R166). -/
def execSeReg (x y : Nibble) (s : State) : Result :=
  .next (s.advance.skipIf (s.readV x == s.readV y))

/-- `9xy0` (R167). -/
def execSneReg (x y : Nibble) (s : State) : Result :=
  .next (s.advance.skipIf (s.readV x != s.readV y))

/-- `Bnnn` (R168): the register is always `V[0]`, the sum keeps 16 bits (decision D31). -/
def execJpV0 (nnn : Addr) (s : State) : Result :=
  .next (s.advance.writePc (zextAddr nnn + zextByte (s.readV 0)))

end Sys2Proof.Machine
end

