-- ==== Sys2Proof/Machine/Display.lean ====
section
/-! DEFINITION. Display instructions (spec/44_display.md R230 to R233). A drawing is the state with its
display and the collision bit so far, which reaches `VF` at the end. -/

namespace Sys2Proof.Machine

/-- `00E0` (R230): `VF` is not touched. -/
def execCls (s : State) : Result := .next s.advance.clearDisp

/-- `(x0 + c) mod 64`: every pixel's column wraps (R232, decision D12). -/
def columnOf (x0 : Byte) (c : Nat) : Fin 64 := ⟨(x0.toNat + c) % 64, Nat.mod_lt _ (by decide)⟩

/-- `(y0 + r) mod 32`: every pixel's row wraps (R232, decision D12). -/
def rowOf (y0 : Byte) (r : Nat) : Fin 32 := ⟨(y0.toNat + r) % 32, Nat.mod_lt _ (by decide)⟩

/-- One step of the inner loop of R232: where the sprite bit is 1, a lit pixel is a collision, and the
pixel is toggled. Bit 7 of a sprite byte is its leftmost pixel (R231, decision D11). -/
def drawPixel (x0 y0 b : Byte) (r : Nat) (d : State × Bool) (c : Nat) : State × Bool :=
  if b.getLsbD (7 - c) then
    (d.1.togglePixel (columnOf x0 c) (rowOf y0 r), d.2 || d.1.pixel (columnOf x0 c) (rowOf y0 r))
  else d

/-- One row of the sprite: the byte at `EA(r)`, its eight columns (R232). -/
def drawRow (x0 y0 : Byte) (d : State × Bool) (r : Nat) : State × Bool :=
  (List.range 8).foldl (drawPixel x0 y0 (d.1.memRead (d.1.ea r)) r) d

/-- The first `n` rows of the sprite at column `x0`, row `y0` (R232). -/
def drawRows (x0 y0 : Byte) (n : Nat) (s : State) : State × Bool :=
  (List.range n).foldl (drawRow x0 y0) (s, false)

/-- `Dxyn` (R232): the coordinates are taken before `VF` is written; `VF` is always written. -/
def execDrw (x y n : Nibble) (s : State) : Result :=
  let d := drawRows (s.readV x) (s.readV y) n.toNat s.advance
  .next (d.1.writeVF (flagByte d.2))

end Sys2Proof.Machine
end

