-- ==== Sys2Proof/Machine/Index.lean ====
section
/-! DEFINITION. Index register, font address, decimal digits, register block store and load
(spec/43_index_memory.md R210 to R216). No transfer changes `I` (R210, decision D23). -/

namespace Sys2Proof.Machine

/-- `Annn` (R211). -/
def execLdI (nnn : Addr) (s : State) : Result := .next (s.advance.writeI (zextAddr nnn))

/-- `I <- (I + zext_16(V[x])) mod 65536`, and under `FX1E_SETS_VF` the flag after it (R212). -/
def State.addToIndex (setsVF : Bool) (x : Nibble) (s : State) : State :=
  let t := s.writeI (s.I + zextByte (s.readV x))
  if setsVF then t.writeVF (indexOverflowFlag s.I (s.readV x)) else t

/-- `Fx1E` (R212), with the configuration's `FX1E_SETS_VF`. -/
def execAddI (x : Nibble) (s : State) : Result :=
  .next (s.advance.addToIndex config.fx1eSetsVF x)

/-- `Fx29` (R213): the digit is the low nibble of `V[x]` (decision D8). -/
def execLdF (x : Nibble) (s : State) : Result :=
  .next (s.advance.writeI (glyphAddr (lowNibble (s.readV x))))

/-- `Fx33` (R214): hundreds, tens, ones at `EA(0)`, `EA(1)`, `EA(2)`. -/
def execBcd (x : Nibble) (s : State) : Result :=
  .next (((s.advance.memWrite (s.ea 0) (hundreds (s.readV x))).memWrite
    (s.ea 1) (tens (s.readV x))).memWrite (s.ea 2) (ones (s.readV x)))

/-- The first `count` stores of a block store, in ascending `k` (R215). -/
def State.storeBlock (count : Nat) (s : State) : State :=
  (List.range count).foldl (fun t k => t.memWrite (t.ea k) (t.readV (blockReg k))) s

/-- The first `count` loads of a block load, in ascending `k` (R216). -/
def State.loadBlock (count : Nat) (s : State) : State :=
  (List.range count).foldl (fun t k => t.writeV (blockReg k) (t.memRead (t.ea k))) s

/-- `Fx55` (R215): `V[0]` to `V[x]`, `x + 1` of them. -/
def execStoreRegs (x : Nibble) (s : State) : Result := .next (s.advance.storeBlock (x.toNat + 1))

/-- `Fx65` (R216): `V[0]` to `V[x]`, `x + 1` of them. -/
def execLoadRegs (x : Nibble) (s : State) : Result := .next (s.advance.loadBlock (x.toNat + 1))

end Sys2Proof.Machine
end

