-- ==== Sys2Proof/Machine/Keypad.lean ====
section
/-! DEFINITION. Keypad skips, key wait, timer access (spec/45_keypad_timers.md R250 to R256). -/

namespace Sys2Proof.Machine

/-- `Ex9E` (R251): the key is the low nibble of `V[x]` (R250, decision D9). -/
def execSkp (x : Nibble) (s : State) : Result :=
  .next (s.advance.skipIf (s.keyDown (lowNibble (s.readV x))))

/-- `ExA1` (R252). -/
def execSknp (x : Nibble) (s : State) : Result :=
  .next (s.advance.skipIf (!s.keyDown (lowNibble (s.readV x))))

/-- `Fx07` (R253). -/
def execGetDT (x : Nibble) (s : State) : Result := .next (s.advance.writeV x s.DT)

/-- `Fx0A` (R254): the wait begins; `V[x]` is written by the `set_key` that ends it
(40_cycle_and_host.md R130, `setKey` in Machine/Transactions.lean). -/
def execWaitKey (x : Nibble) (s : State) : Result := .next (s.advance.beginWait x)

/-- `Fx15` (R255). -/
def execSetDT (x : Nibble) (s : State) : Result := .next (s.advance.writeDT (s.readV x))

/-- `Fx18` (R256). -/
def execSetST (x : Nibble) (s : State) : Result := .next (s.advance.writeST (s.readV x))

end Sys2Proof.Machine
end

