-- ==== Sys2Proof/Machine/Step.lean ====
section
/-! DEFINITION. The `step` transaction (spec/40_cycle_and_host.md R121), and the state in which the next
step runs a given word. -/

namespace Sys2Proof.Machine

/-- One `step` transaction (R121): `cycle` (Machine/Ops.lean) over the meanings of `exec`. -/
def step (s : State) : Host.Outcome State Fault Refusal := cycle exec s

/-- The state with an instruction word stored, high byte first, where the next step fetches, and able to
fetch it: not in key wait, and `pc` at 0x0200 where it was outside the fetch range. Log entries 13, 14. -/
def State.withFetchWord (s : State) (nbits w : Nat) : State :=
  let t := { s with waiting := false, pc := if s.fetchable then s.pc else 0x0200 }
  (t.memWrite t.fetchAddr ((tableWord nbits w).extractLsb' 8 8)).memWrite
    (t.fetchAddr + 1) ((tableWord nbits w).extractLsb' 0 8)

end Sys2Proof.Machine
end

