-- ==== Sys2Proof/Machine/Transactions.lean ====
section
/-! DEFINITION. The host's transactions beside `step`, the results the host is given, and the outputs
(spec/40_cycle_and_host.md R120, R128 to R134; spec/60_exceptions.md R270, R276 to R278). The order of
transactions is the host's: a run is any list of them (R136). -/

namespace Sys2Proof.Machine

/-- What the host can ask for (R120). `step`'s input `rnd` is the free value `Config.rnd`. -/
inductive Transaction where
  | reset
  | load (bytes : List Byte)
  | step
  | tick
  | setKey (k : Nibble) (down : Bool)
  deriving DecidableEq, Repr

/-- What the host is told (R128, R131): `Ok`, `Ok` with the event `UnknownOpcode(w)`, the error of a
step, or the load error. `refused` stands for a refusal of a step, which no instruction gives. -/
inductive Reply where
  | ok
  | unknownOpcode (w : Word)
  | err (f : Fault)
  | tooLarge
  | refused (r : Refusal)
  deriving DecidableEq, Repr

/-- The numeric result code of a step (60_exceptions.md R270, decision D3). -/
def Fault.code : Fault → Nat
  | .stackOverflow => 1
  | .stackUnderflow => 2
  | .pcOutOfRange => 3

/-- The numeric result code of a reply: 0 is `Ok`, with or without the event (R270); a load's
`TooLarge` is 1 in the load's own numbering (decision D3). -/
def Reply.code : Reply → Option Nat
  | .ok => some 0
  | .unknownOpcode _ => some 0
  | .err f => some f.code
  | .tooLarge => some 1
  | .refused _ => none

/-- The event that a step of the state reports: `UnknownOpcode(w)` when the step fetches a word that is
no instruction (R127, R277); none in key wait (R122) or outside the fetch range (R273). -/
def State.event (s : State) : Option Word :=
  if s.waiting then none
  else if s.fetchable then
    match decodeWord s.fetch with
    | .instr _ => none
    | .unknown w => some w
  else none

/-- The `step` transaction with its result (R128). A fault or a refusal changes no state
(60_exceptions.md R274). -/
def stepTxn (s : State) : Reply × State :=
  match step s with
  | .next t =>
    match s.event with
    | none => (.ok, t)
    | some w => (.unknownOpcode w, t)
  | .fault f => (.err f, s)
  | .refused r => (.refused r, s)

/-- One down-count of a timer, saturating at 0 (R129). -/
def countDown (t : Byte) : Byte := if t = 0 then 0 else t - 1

/-- The `tick` transaction (R129). -/
def tick (s : State) : State := { s with DT := countDown s.DT, ST := countDown s.ST }

/-- The `set_key` transaction (R130): the level is written, and a press (a change from up to down)
during a key wait puts the key's number into the waiting register and ends the wait. -/
def setKey (k : Nibble) (down : Bool) (s : State) : State :=
  if s.waiting && down && !s.keyDown k then
    ((s.writeKey k down).writeV s.waitReg (k.setWidth 8)).endWait
  else s.writeKey k down

/-- `MemWrite(a + i, 1, bytes[i])` in ascending `i` (R131). -/
def State.storeBytes (s : State) (a : Nat) : List Byte → State
  | [] => s
  | b :: bs => (s.memWrite (BitVec.ofNat 12 a) b).storeBytes (a + 1) bs

/-- The `load` transaction (R131): all or nothing. -/
def load (bytes : List Byte) (s : State) : Reply × State :=
  if progMaxBytes < bytes.length then (.tooLarge, s)
  else (.ok, s.storeBytes progBase bytes)

/-- The `reset` transaction (R132): every piece of the spec's state at its reset value. The model's own
`draws` is kept, so that no random byte is drawn twice. Log entry 1. -/
def reset (s : State) : State := { State.reset with draws := s.draws }

/-- A transaction: what the host is told, and the state after. -/
def transact (t : Transaction) (s : State) : Reply × State :=
  match t with
  | .reset => (.ok, reset s)
  | .load bytes => load bytes s
  | .step => stepTxn s
  | .tick => (.ok, tick s)
  | .setKey k down => (.ok, setKey k down s)

/-- A run: the transactions in the host's order (R120, R136), with every reply. -/
def runTransactions : List Transaction → State → List Reply × State
  | [], s => ([], s)
  | t :: ts, s =>
    let r := transact t s
    let q := runTransactions ts r.2
    (r.1 :: q.1, q.2)

/-- The output `displaySnapshot` (R133): element `py * 64 + px` of the list is `Disp[px, py]`. -/
def State.displaySnapshot (s : State) : List Bool :=
  (List.finRange 32).flatMap fun py => (List.finRange 64).map fun px => s.pixel px py

/-- The output `sound_active` (R134): 1 exactly when `ST != 0`. -/
def State.soundActive (s : State) : Bool := s.ST != 0

end Sys2Proof.Machine
end

