-- ==== Sys2Proof/Safety.lean ====
section
/-! DEFINITION. What claims about runs are stated in: the invariant of the reachable states
(spec/10_state.md R47), and the end of a run (spec/40_cycle_and_host.md R137). -/

namespace Sys2Proof.Machine

/-- The invariant of R47, with memory in its canonical form. `0 <= sp <= 16` is the type of `sp`. -/
structure Inv (s : State) : Prop where
  /-- Memory is in canonical form. -/
  memWf : s.Mem.wf = true
  /-- `pc <= 0x10FE`. -/
  pcBound : s.pc.toNat ≤ 0x10FE
  /-- Every live stack entry is between 0x0202 and 0x1000. -/
  stackLive : ∀ k : Fin 16, k.val < s.sp.val →
    0x0202 ≤ (s.Stack[k.val]).toNat ∧ (s.Stack[k.val]).toNat ≤ 0x1000

/-- The key-wait clause of R47: while waiting, `pc - 2` holds the `Fx0A` that began the wait, with
`x = wait_reg`. Memory may be changed by a `load` in between, so this is kept by every transaction
but `load`. -/
def WaitInv (s : State) : Prop :=
  s.waiting = true →
    0x0202 ≤ s.pc.toNat ∧ s.pc.toNat ≤ 0x1000 ∧
    decodeWord (s.fetch16 ((s.pc - 2).setWidth 12)) = .instr (.waitKey s.waitReg)

/-- The model's end of a run (R137, decision D28): the next step runs a `1nnn` that jumps to itself.
DESIGN CHOICE, log entry 20. -/
def State.idle (s : State) : Bool :=
  !s.waiting && s.fetchable && decide (decodeWord s.fetch = .instr (.jp s.fetchAddr))

end Sys2Proof.Machine
end

