-- ==== Sys2Proof/Certificates/Slice0/Obligations.lean ====
section
/-! DEFINITION. The statements for the provers. Each docstring names the rule of spec/ it formalises. A
statement about an instruction gives its word as the digits of its pattern, the next state that `exec`
answers, and its frame: everything that is not named is equal before and after. -/

open Sys2Proof Sys2Proof.Machine

namespace Sys2Proof.Stated

/-! ### The words of the formats of 30_encoding.md R91, as numbers made of their hexadecimal digits -/

/-- A word of format `NNN`. -/
def patNNN (op : Nat) (nnn : Addr) : Word := BitVec.ofNat 16 (op * 4096 + nnn.toNat)
/-- A word of format `XKK`. -/
def patXKK (op : Nat) (x : Nibble) (kk : Byte) : Word :=
  BitVec.ofNat 16 (op * 4096 + x.toNat * 256 + kk.toNat)
/-- A word of format `XY`, or of `XYN` with the row count as its last digit. -/
def patXY (op : Nat) (x y : Nibble) (low : Nat) : Word :=
  BitVec.ofNat 16 (op * 4096 + x.toNat * 256 + y.toNat * 16 + low)
/-- A word of format `X`. -/
def patX (op : Nat) (x : Nibble) (low : Nat) : Word :=
  BitVec.ofNat 16 (op * 4096 + x.toNat * 256 + low)

/-! ### Frames -/

/-- Every byte of memory reads as before. -/
def SameMemory (s t : State) : Prop := ∀ a : Addr, t.memRead a = s.memRead a

/-- Every register outside the list reads as before. -/
def KeepsRegsBut (ds : List Nibble) (s t : State) : Prop := ∀ r, r ∉ ds → t.readV r = s.readV r

/-- Only `pc` differs. -/
def OnlyPc (s t : State) : Prop := t = { s with pc := t.pc } ∧ SameMemory s t

/-- Only general registers and `pc` differ, `pc` by 2; of the registers, only those in the list. -/
def OnlyRegs (ds : List Nibble) (s t : State) : Prop :=
  t = { s with V := t.V, pc := s.pc + 2 } ∧ KeepsRegsBut ds s t ∧ SameMemory s t

/-- Only `I` and `pc` differ, `pc` by 2. -/
def OnlyIndex (s t : State) : Prop := t = { s with I := t.I, pc := s.pc + 2 } ∧ SameMemory s t

/-- Only memory and `pc` differ, `pc` by 2. -/
def OnlyStores (s t : State) : Prop := t = { s with Mem := t.Mem, pc := s.pc + 2 }

/-- `pc` is in the fetch range of 10_state.md R27. -/
def InRange (s : State) : Prop := 0x0200 ≤ s.pc.toNat ∧ s.pc.toNat ≤ 0x0FFE

/-- A sprite bit of `Dxyn` falls on the pixel (44_display.md R231, R232): row `r` of `n`, column `c` of 8,
bit `7 - c` of the byte at `EA(r)`, both coordinates wrapping. -/
def SpriteOn (s : State) (x0 y0 : Byte) (n : Nibble) (px : Fin 64) (py : Fin 32) : Prop :=
  ∃ r c : Nat, r < n.toNat ∧ c < 8 ∧ (s.memRead (s.ea r)).getLsbD (7 - c) = true ∧
    px.val = (x0.toNat + c) % 64 ∧ py.val = (y0.toNat + r) % 32

end Sys2Proof.Stated

open Sys2Proof.Stated

/-! ### Encoding -/

/-- 95_test_vectors.md section 3.2: words written out from the patterns decode to their instructions. -/
def Obligations.SampleWordsDecode : Prop :=
  decodeWord 0x00E0 = .instr .cls ∧ decodeWord 0x00EE = .instr .ret ∧
  decodeWord 0x2300 = .instr (.call 0x300) ∧ decodeWord 0x6A12 = .instr (.ldImm 0xA 0x12) ∧
  decodeWord 0x8124 = .instr (.addReg 1 2) ∧ decodeWord 0x81F6 = .instr (.shr 1 0xF) ∧
  decodeWord 0xA123 = .instr (.ldI 0x123) ∧ decodeWord 0xF355 = .instr (.storeRegs 3) ∧
  decodeWord 0xDABF = .instr (.drw 0xA 0xB 0xF) ∧ decodeWord 0xE19E = .instr (.skp 1) ∧
  decodeWord 0xF10A = .instr (.waitKey 1) ∧ decodeWord 0x5121 = .unknown 0x5121 ∧
  decodeWord 0x0000 = .unknown 0x0000

/-- 30_encoding.md sections 2, 3 and 6 (R93, R103, R106): decoding an encoded instruction gives it back,
with every operand at every value, from the word and from the bytes in memory order. -/
def Obligations.DecodingAnEncodedInstructionGivesItBack : Prop :=
  ∀ (i : Instr) (rest : List Byte),
    decodeWord (encode i) = .instr i ∧ decodeBytes (encodeBytes i ++ rest) = .ok (i, rest)

/-- 30_encoding.md R96, R98: a word that is an instruction is that instruction's one encoding; the unused
`y` of the shifts is kept. -/
def Obligations.EncodingADecodedWordGivesItBack : Prop :=
  ∀ (w : Word) (i : Instr), decodeWord w = .instr i → encode i = w

/-- R96 with R92: `(w & mask) = match` decides the row, the fields are those of R92, and no two rows
overlap. -/
def Obligations.DecoderFollowsTheOpcodeMap : Prop :=
  (∀ (w : Word) (r : Row),
    w &&& r.format.mask = r.code ↔
      decodeWord w = .instr (r.instr (w.extractLsb' 8 4) (w.extractLsb' 4 4) (w.extractLsb' 0 4)
        (w.extractLsb' 0 8) (w.extractLsb' 0 12))) ∧
  (∀ (w : Word) (r q : Row), w &&& r.format.mask = r.code → w &&& q.format.mask = q.code → r = q)

/-- 30_encoding.md section 4 (R99, its classes (a) to (f)): which words are unknown opcodes. -/
def Obligations.UnknownWordsAreTheSixClasses : Prop :=
  ∀ w : Word, decodeWord w = .unknown w ↔
    (w.extractLsb' 12 4 = 0x0#4 ∧ w.extractLsb' 0 12 ≠ 0x0E0#12 ∧ w.extractLsb' 0 12 ≠ 0x0EE#12) ∨
    (w.extractLsb' 12 4 = 0x5#4 ∧ w.extractLsb' 0 4 ≠ 0x0#4) ∨
    (w.extractLsb' 12 4 = 0x9#4 ∧ w.extractLsb' 0 4 ≠ 0x0#4) ∨
    (w.extractLsb' 12 4 = 0x8#4 ∧
      w.extractLsb' 0 4 ∈ [0x8#4, 0x9#4, 0xA#4, 0xB#4, 0xC#4, 0xD#4, 0xF#4]) ∨
    (w.extractLsb' 12 4 = 0xE#4 ∧ w.extractLsb' 0 8 ∉ [0x9E#8, 0xA1#8]) ∨
    (w.extractLsb' 12 4 = 0xF#4 ∧ w.extractLsb' 0 8 ∉
      [0x07#8, 0x0A#8, 0x15#8, 0x18#8, 0x1E#8, 0x29#8, 0x33#8, 0x55#8, 0x65#8])

/-- R106 in arithmetic, with the ranges of R93 and the formats of R91: a row and numbers are well-formed
exactly when each field of the row's format is in its range and each field it lacks is 0; then they give an
instruction whose word is the sum of the fixed bits and the fields at their places; any other numbers give
none. -/
def Obligations.WellFormedNumbersEncodeAtTheirPlaces : Prop :=
  ∀ r : RawInstr,
    (r.WellFormed = true ↔
      (if r.row.format ∈ [Format.XKK, .XY, .XYN, .X] then r.x < 16 else r.x = 0) ∧
      (if r.row.format ∈ [Format.XY, .XYN] then r.y < 16 else r.y = 0) ∧
      (if r.row.format ∈ [Format.XYN] then r.n < 16 else r.n = 0) ∧
      (if r.row.format ∈ [Format.XKK] then r.kk < 256 else r.kk = 0) ∧
      (if r.row.format ∈ [Format.NNN] then r.nnn < 4096 else r.nnn = 0)) ∧
    (r.WellFormed = true → ∃ i, r.toInstr = some i ∧ i.row = r.row ∧
      (encode i).toNat = r.row.code.toNat + 256 * r.x + 16 * r.y + r.n + r.kk + r.nnn) ∧
    (r.WellFormed = false → r.toInstr = none)

/-! ### The cycle of a step -/

/-- 40_cycle_and_host.md R126 with R121 lines 1 to 4 and 7: a step that is not in key wait and whose `pc`
is in range is `exec` of the instruction that the two bytes at `pc` decode to; the advance of R124 and
the checks of R125 are inside `exec`. The transaction replies `Ok` with no event where `exec` answers a next
state, and the fault's error, with the state as it was, where it faults (R128, R274). -/
def Obligations.StepRunsTheDecodedInstruction : Prop :=
  ∀ (s : State) (i : Instr), s.waiting = false → InRange s →
    decodeBytes [s.memRead (BitVec.ofNat 12 s.pc.toNat), s.memRead (BitVec.ofNat 12 (s.pc.toNat + 1))]
      = .ok (i, []) →
    step s = exec i s ∧
    (∀ t, exec i s = .next t → transact .step s = (.ok, t)) ∧
    (∀ f, exec i s = .fault f → transact .step s = (.err f, s))

/-- R60: the fetched word has `Mem[a]` in its high byte and `Mem[a + 1]` in its low byte, and within the
fetch range the second address does not wrap. -/
def Obligations.FetchIsBigEndian : Prop :=
  ∀ s : State, InRange s →
    s.fetch.extractLsb' 8 8 = s.memRead (BitVec.ofNat 12 s.pc.toNat) ∧
    s.fetch.extractLsb' 0 8 = s.memRead (BitVec.ofNat 12 (s.pc.toNat + 1)) ∧
    (BitVec.ofNat 12 s.pc.toNat).toNat = s.pc.toNat ∧
    (BitVec.ofNat 12 (s.pc.toNat + 1)).toNat = s.pc.toNat + 1

/-- R122: a step in key wait returns `Ok` with no event and changes nothing, wherever `pc` is, and only a
reset or a `set_key` that reports a press ends the wait. -/
def Obligations.KeyWaitStepChangesNothing : Prop :=
  ∀ s : State, s.waiting = true →
    step s = .next s ∧ transact .step s = (.ok, s) ∧
    ∀ t : Transaction, (transact t s).2.waiting = false →
      t = .reset ∨ ∃ k, t = .setKey k true ∧ s.keyDown k = false

/-- R127 (the event is always reported by decision D16, log entry 3): a word that matches no row of the opcode map only advances `pc` by 2; the step is `Ok` and
reports the word. -/
def Obligations.UnknownOpcodeOnlyAdvances : Prop :=
  ∀ s : State, s.waiting = false → InRange s →
    (∀ r : Row, s.fetch &&& r.format.mask ≠ r.code) →
    step s = .next { s with pc := s.pc + 2 } ∧
    transact .step s = (.unknownOpcode s.fetch, { s with pc := s.pc + 2 })

/-- 60_exceptions.md R270 to R273: the three faults, each exactly under its condition, their codes, and that
no step is refused. The codes and the lower bound of `pc` are the spec's decisions D3 and D2 (log entries
16, 6). -/
def Obligations.FaultsExactlyUnderTheirConditions : Prop :=
  (∀ s : State,
    (step s = .fault .stackOverflow ↔ s.waiting = false ∧ InRange s ∧ s.sp.val = 16 ∧
      ∃ nnn, decodeWord s.fetch = .instr (.call nnn)) ∧
    (step s = .fault .stackUnderflow ↔ s.waiting = false ∧ InRange s ∧ s.sp.val = 0 ∧
      decodeWord s.fetch = .instr .ret) ∧
    (step s = .fault .pcOutOfRange ↔
      s.waiting = false ∧ (s.pc.toNat < 0x0200 ∨ 0x0FFE < s.pc.toNat)) ∧
    (∀ r, step s ≠ .refused r)) ∧
  Reply.code .ok = some 0 ∧ (∀ w, Reply.code (.unknownOpcode w) = some 0) ∧
  Reply.code (.err .stackOverflow) = some 1 ∧ Reply.code (.err .stackUnderflow) = some 2 ∧
  Reply.code (.err .pcOutOfRange) = some 3

/-- R274 and 60_exceptions.md R276 (decisions D4, D5, log entry 16): a faulting step changes nothing, the same step asked again gives the
same error, `tick` and `set_key` do not cure it, and a `load` never cures `PcOutOfRange`. -/
def Obligations.FaultsArePreciseAndRepeat : Prop :=
  ∀ (s : State) (f : Fault), step s = .fault f →
    transact .step s = (.err f, s) ∧
    step (transact .tick s).2 = .fault f ∧
    (∀ k down, step (transact (.setKey k down) s).2 = .fault f) ∧
    (f = .pcOutOfRange → ∀ bytes, step (transact (.load bytes) s).2 = .fault f)

/-- 20_memory.md R78 (decision D21, log entry 21): bytes that a block store puts where the next step fetches are the word it fetches. -/
def Obligations.StoredBytesAreFetchedNext : Prop :=
  ∀ (s : State) (x : Nibble) (k : Nat), k < x.toNat → 0x0200 ≤ s.pc.toNat + 2 → s.pc.toNat + 2 ≤ 0x0FFE →
    (s.I.toNat + k) % 4096 = s.pc.toNat + 2 →
    ∃ t, exec (.storeRegs x) s = .next t ∧
      t.fetch = s.readV (BitVec.ofNat 4 k) ++ s.readV (BitVec.ofNat 4 (k + 1))

/-! ### Control transfer -/

/-- 41_control_flow.md R162: `1nnn`; R168, whose sum keeps 16 bits by the spec's decision D31 (log entry 21):
`Bnnn`. An out-of-range target faults at the next step. -/
def Obligations.JumpsSetTheProgramCounter : Prop :=
  ∀ (s : State) (nnn : Addr),
    decodeWord (patNNN 0x1 nnn) = .instr (.jp nnn) ∧
    (∃ t, exec (.jp nnn) s = .next t ∧ t.pc.toNat = nnn.toNat ∧ OnlyPc s t ∧
      (s.waiting = false → nnn.toNat < 0x200 ∨ nnn.toNat = 0xFFF → step t = .fault .pcOutOfRange)) ∧
    decodeWord (patNNN 0xB nnn) = .instr (.jpV0 nnn) ∧
    (∃ t, exec (.jpV0 nnn) s = .next t ∧ t.pc.toNat = nnn.toNat + (s.readV 0).toNat ∧ OnlyPc s t ∧
      (s.waiting = false → nnn.toNat + (s.readV 0).toNat < 0x200 ∨ 0xFFE < nnn.toNat + (s.readV 0).toNat →
        step t = .fault .pcOutOfRange))

/-- R163, 60_exceptions.md R271: `2nnn` pushes the address of the following instruction, or overflows. -/
def Obligations.CallPushesOrOverflows : Prop :=
  ∀ (s : State) (nnn : Addr),
    decodeWord (patNNN 0x2 nnn) = .instr (.call nnn) ∧
    (s.sp.val = 16 → exec (.call nnn) s = .fault .stackOverflow) ∧
    (s.sp.val < 16 → ∃ t, exec (.call nnn) s = .next t ∧
      (∀ k : Fin 16, t.Stack[k] = if k.val = s.sp.val then s.pc + 2 else s.Stack[k]) ∧
      t.sp.val = s.sp.val + 1 ∧ t.pc.toNat = nnn.toNat ∧
      t = { s with Stack := t.Stack, sp := t.sp, pc := t.pc } ∧ SameMemory s t)

/-- R161, 60_exceptions.md R272, 10_state.md R31: `00EE` pops the newest entry into `pc`, the stack
keeping its bits, or underflows. -/
def Obligations.ReturnPopsOrUnderflows : Prop :=
  decodeWord 0x00EE = .instr .ret ∧
  ∀ s : State,
    (s.sp.val = 0 → exec .ret s = .fault .stackUnderflow) ∧
    (s.sp.val ≠ 0 → ∃ t, exec .ret s = .next t ∧ t.sp.val + 1 = s.sp.val ∧
      (∀ k : Fin 16, k.val + 1 = s.sp.val → t.pc = s.Stack[k]) ∧
      t = { s with sp := t.sp, pc := t.pc } ∧ SameMemory s t)

/-- 95_test_vectors.md T4 (the source's property), from R161 and R163: after a call, a return from any
state with the same stack goes to the instruction after the call, with the depth as before it. -/
def Obligations.ReturnUndoesCall : Prop :=
  ∀ (s : State) (nnn : Addr), s.sp.val < 16 →
    ∃ t, exec (.call nnn) s = .next t ∧
      ∀ t' : State, t'.sp = t.sp → t'.Stack = t.Stack →
        ∃ u, exec .ret t' = .next u ∧ u.pc = s.pc + 2 ∧ u.sp = s.sp

/-- R164, R165, R166, R167: the skips that compare a register; a `5xy` or `9xy` word with another low digit
is an unknown opcode. -/
def Obligations.RegisterSkips : Prop :=
  ∀ (s : State) (x y : Nibble) (kk : Byte),
    decodeWord (patXKK 0x3 x kk) = .instr (.seImm x kk) ∧
    (∃ t, exec (.seImm x kk) s = .next t ∧ OnlyPc s t ∧
      t.pc = s.pc + (if s.readV x = kk then 4 else 2)) ∧
    decodeWord (patXKK 0x4 x kk) = .instr (.sneImm x kk) ∧
    (∃ t, exec (.sneImm x kk) s = .next t ∧ OnlyPc s t ∧
      t.pc = s.pc + (if s.readV x = kk then 2 else 4)) ∧
    decodeWord (patXY 0x5 x y 0x0) = .instr (.seReg x y) ∧
    (∃ t, exec (.seReg x y) s = .next t ∧ OnlyPc s t ∧
      t.pc = s.pc + (if s.readV x = s.readV y then 4 else 2)) ∧
    decodeWord (patXY 0x9 x y 0x0) = .instr (.sneReg x y) ∧
    (∃ t, exec (.sneReg x y) s = .next t ∧ OnlyPc s t ∧
      t.pc = s.pc + (if s.readV x = s.readV y then 2 else 4)) ∧
    (∀ low, 0 < low → low < 16 →
      decodeWord (patXY 0x5 x y low) = .unknown (patXY 0x5 x y low) ∧
      decodeWord (patXY 0x9 x y low) = .unknown (patXY 0x9 x y low))

/-! ### Registers -/

/-- 42_alu.md R181 to R186 (that `8xy1` keeps `VF` is R184 with decision D24, log entry 21): loads, `7xkk` and
the logic operations write `V[x]` and no flag. -/
def Obligations.LoadsAndLogicWriteOneRegister : Prop :=
  ∀ (s : State) (x y : Nibble) (kk : Byte),
    decodeWord (patXKK 0x6 x kk) = .instr (.ldImm x kk) ∧
    (∃ t, exec (.ldImm x kk) s = .next t ∧ OnlyRegs [x] s t ∧ t.readV x = kk) ∧
    decodeWord (patXKK 0x7 x kk) = .instr (.addImm x kk) ∧
    (∃ t, exec (.addImm x kk) s = .next t ∧ OnlyRegs [x] s t ∧
      (t.readV x).toNat = ((s.readV x).toNat + kk.toNat) % 256) ∧
    decodeWord (patXY 0x8 x y 0x0) = .instr (.ldReg x y) ∧
    (∃ t, exec (.ldReg x y) s = .next t ∧ OnlyRegs [x] s t ∧ t.readV x = s.readV y) ∧
    decodeWord (patXY 0x8 x y 0x1) = .instr (.orReg x y) ∧
    (∃ t, exec (.orReg x y) s = .next t ∧ OnlyRegs [x] s t ∧ t.readV x = s.readV x ||| s.readV y) ∧
    decodeWord (patXY 0x8 x y 0x2) = .instr (.andReg x y) ∧
    (∃ t, exec (.andReg x y) s = .next t ∧ OnlyRegs [x] s t ∧ t.readV x = s.readV x &&& s.readV y) ∧
    decodeWord (patXY 0x8 x y 0x3) = .instr (.xorReg x y) ∧
    (∃ t, exec (.xorReg x y) s = .next t ∧ OnlyRegs [x] s t ∧ t.readV x = s.readV x ^^^ s.readV y)

/-- R187, R188, R190: the sums and differences modulo 256, the flag from the values before the
instruction, and the flag standing where `x` is 0xF (R180, decision D13). -/
def Obligations.ArithmeticResultsAndFlags : Prop :=
  ∀ (s : State) (x y : Nibble), let a := (s.readV x).toNat; let b := (s.readV y).toNat
    decodeWord (patXY 0x8 x y 0x4) = .instr (.addReg x y) ∧
    (∃ t, exec (.addReg x y) s = .next t ∧ OnlyRegs [x, 0xF] s t ∧
      (x ≠ 0xF → (t.readV x).toNat = (a + b) % 256) ∧ t.readV 0xF = if 255 < a + b then 1 else 0) ∧
    decodeWord (patXY 0x8 x y 0x5) = .instr (.subReg x y) ∧
    (∃ t, exec (.subReg x y) s = .next t ∧ OnlyRegs [x, 0xF] s t ∧
      (x ≠ 0xF → (t.readV x).toNat = (a + 256 - b) % 256) ∧ t.readV 0xF = if b ≤ a then 1 else 0) ∧
    decodeWord (patXY 0x8 x y 0x7) = .instr (.subnReg x y) ∧
    (∃ t, exec (.subnReg x y) s = .next t ∧ OnlyRegs [x, 0xF] s t ∧
      (x ≠ 0xF → (t.readV x).toNat = (b + 256 - a) % 256) ∧ t.readV 0xF = if a ≤ b then 1 else 0)

/-- R189, R191: the shifts by one, whatever `y` is (R98, decision D24); where `x` is 0xF the flag is
written first and then shifted (R180, decision D13). -/
def Obligations.ShiftResultsAndFlags : Prop :=
  ∀ (s : State) (x y : Nibble), let a := (s.readV x).toNat
    decodeWord (patXY 0x8 x y 0x6) = .instr (.shr x y) ∧
    (∃ t, exec (.shr x y) s = .next t ∧ OnlyRegs [x, 0xF] s t ∧
      (x ≠ 0xF → (t.readV x).toNat = a / 2 ∧ (t.readV 0xF).toNat = a % 2) ∧
      (x = 0xF → t.readV 0xF = 0)) ∧
    decodeWord (patXY 0x8 x y 0xE) = .instr (.shl x y) ∧
    (∃ t, exec (.shl x y) s = .next t ∧ OnlyRegs [x, 0xF] s t ∧
      (x ≠ 0xF → (t.readV x).toNat = a * 2 % 256 ∧ (t.readV 0xF).toNat = a / 128) ∧
      (x = 0xF → t.readV 0xF = if 0x80 ≤ a then 0x02 else 0x00))

/-- R192, whatever the random byte is: `Config.rnd` is a free value, one for each draw (log entry 1). -/
def Obligations.RandomByteIsMasked : Prop :=
  ∀ (s : State) (x : Nibble) (kk : Byte),
    decodeWord (patXKK 0xC x kk) = .instr (.rnd x kk) ∧
    ∃ t, exec (.rnd x kk) s = .next t ∧
      t.readV x = Config.rnd s.draws &&& kk ∧ t.readV x &&& ~~~kk = 0 ∧
      t = { s with V := t.V, pc := s.pc + 2, draws := s.draws + 1 } ∧
      KeepsRegsBut [x] s t ∧ SameMemory s t

/-! ### Index register and memory -/

/-- 20_memory.md R66 (decision D7, log entry 6): the effective data address, from the full index, reduced to
12 bits. -/
def Obligations.DataAddressWraps : Prop :=
  ∀ (s : State) (k : Nat), (s.ea k).toNat = (s.I.toNat + k) % 4096

/-- 43_index_memory.md R211; R212 at the default `FX1E_SETS_VF = false` (the spec's decision D6, log entry 6);
R213, whose digit is the low nibble by decision D8 (log entry 21). -/
def Obligations.IndexRegisterWrites : Prop :=
  ∀ (s : State) (x : Nibble) (nnn : Addr),
    decodeWord (patNNN 0xA nnn) = .instr (.ldI nnn) ∧
    (∃ t, exec (.ldI nnn) s = .next t ∧ OnlyIndex s t ∧ t.I.toNat = nnn.toNat) ∧
    decodeWord (patX 0xF x 0x1E) = .instr (.addI x) ∧
    (∃ t, exec (.addI x) s = .next t ∧ OnlyIndex s t ∧
      t.I.toNat = (s.I.toNat + (s.readV x).toNat) % 65536) ∧
    decodeWord (patX 0xF x 0x29) = .instr (.ldF x) ∧
    (∃ t, exec (.ldF x) s = .next t ∧ OnlyIndex s t ∧
      t.I.toNat = 0x50 + 5 * ((s.readV x).toNat % 16))

/-- R212, the alternative that `FX1E_SETS_VF = true` names: the flag of a sum above 0x0FFF, written after
`I`; nothing else changes. -/
def Obligations.AddIndexUnderTheFlagPolicy : Prop :=
  ∀ (s : State) (x : Nibble), let t := s.addToIndex true x
    t.I.toNat = (s.I.toNat + (s.readV x).toNat) % 65536 ∧
    (t.readV 0xF = if 0x0FFF < s.I.toNat + (s.readV x).toNat then 1 else 0) ∧
    KeepsRegsBut [0xF] s t ∧ t = { s with I := t.I, V := t.V }

/-- R214: the three decimal digits at `EA(0)`, `EA(1)`, `EA(2)`, and no other byte. -/
def Obligations.DecimalDigitsAreStored : Prop :=
  ∀ (s : State) (x : Nibble),
    decodeWord (patX 0xF x 0x33) = .instr (.bcd x) ∧
    ∃ t, exec (.bcd x) s = .next t ∧ OnlyStores s t ∧
      (t.memRead (s.ea 0)).toNat = (s.readV x).toNat / 100 ∧
      (t.memRead (s.ea 1)).toNat = (s.readV x).toNat / 10 % 10 ∧
      (t.memRead (s.ea 2)).toNat = (s.readV x).toNat % 10 ∧
      ∀ c : Addr, (∀ k, k < 3 → c ≠ s.ea k) → t.memRead c = s.memRead c

/-- R215: `V[0]` to `V[x]` at `EA(0)` to `EA(x)`, and no other byte. -/
def Obligations.BlockStoreWritesRegisters : Prop :=
  ∀ (s : State) (x : Nibble),
    decodeWord (patX 0xF x 0x55) = .instr (.storeRegs x) ∧
    ∃ t, exec (.storeRegs x) s = .next t ∧ OnlyStores s t ∧
      (∀ y : Nibble, y.toNat ≤ x.toNat → t.memRead (s.ea y.toNat) = s.readV y) ∧
      ∀ c : Addr, (∀ k, k ≤ x.toNat → c ≠ s.ea k) → t.memRead c = s.memRead c

/-- R216: `V[0]` to `V[x]` from `EA(0)` to `EA(x)`, the registers above kept. -/
def Obligations.BlockLoadReadsMemory : Prop :=
  ∀ (s : State) (x : Nibble),
    decodeWord (patX 0xF x 0x65) = .instr (.loadRegs x) ∧
    ∃ t, exec (.loadRegs x) s = .next t ∧ t = { s with V := t.V, pc := s.pc + 2 } ∧ SameMemory s t ∧
      ∀ y : Nibble, t.readV y = if y.toNat ≤ x.toNat then s.memRead (s.ea y.toNat) else s.readV y

/-! ### Display -/

/-- 44_display.md R230: all pixels off, twice the same as once. -/
def Obligations.ClearTurnsAllPixelsOff : Prop :=
  decodeWord 0x00E0 = .instr .cls ∧
  ∀ s : State, ∃ t, exec .cls s = .next t ∧ (∀ px py, t.pixel px py = false) ∧
    t = { s with Disp := t.Disp, pc := s.pc + 2 } ∧ SameMemory s t ∧
    ∃ u, exec .cls t = .next u ∧ u.Disp = t.Disp

/-- R232 with R231 (decisions D11, D12): every pixel under a sprite bit is toggled and no other, `VF` is 1
exactly when a lit pixel was under one, the coordinates being read before `VF` is written. -/
def Obligations.DrawXorsTheSprite : Prop :=
  ∀ (s : State) (x y n : Nibble),
    decodeWord (patXY 0xD x y n.toNat) = .instr (.drw x y n) ∧
    ∃ t, exec (.drw x y n) s = .next t ∧
      (∀ px py, t.pixel px py = true ↔
        ((s.pixel px py = true ∧ ¬ SpriteOn s (s.readV x) (s.readV y) n px py) ∨
         (s.pixel px py = false ∧ SpriteOn s (s.readV x) (s.readV y) n px py))) ∧
      ((∃ px py, s.pixel px py = true ∧ SpriteOn s (s.readV x) (s.readV y) n px py) →
        t.readV 0xF = 1) ∧
      ((¬ ∃ px py, s.pixel px py = true ∧ SpriteOn s (s.readV x) (s.readV y) n px py) →
        t.readV 0xF = 0) ∧
      t = { s with V := t.V, Disp := t.Disp, pc := s.pc + 2 } ∧
      KeepsRegsBut [0xF] s t ∧ SameMemory s t

/-- 44_display.md R233 (derived there): the same draw twice restores the display, and the second reports a
collision exactly when a sprite bit fell on a pixel that was off before the first. -/
def Obligations.DrawingTwiceRestoresTheDisplay : Prop :=
  ∀ (s : State) (x y n : Nibble), x ≠ 0xF → y ≠ 0xF →
    ∃ t u, exec (.drw x y n) s = .next t ∧ exec (.drw x y n) t = .next u ∧
      (∀ px py, u.pixel px py = s.pixel px py) ∧
      (u.readV 0xF = 1 ↔
        ∃ px py, s.pixel px py = false ∧ SpriteOn s (s.readV x) (s.readV y) n px py)

/-! ### Keypad and timers -/

/-- 45_keypad_timers.md R251, R252 with R250 (decision D9, log entry 21): the skips on the level of the key
that the low nibble of `V[x]` names. -/
def Obligations.KeySkips : Prop :=
  ∀ (s : State) (x k : Nibble), k.toNat = (s.readV x).toNat % 16 →
    decodeWord (patX 0xE x 0x9E) = .instr (.skp x) ∧
    (∃ t, exec (.skp x) s = .next t ∧ OnlyPc s t ∧
      t.pc = s.pc + (if s.keyDown k = true then 4 else 2)) ∧
    decodeWord (patX 0xE x 0xA1) = .instr (.sknp x) ∧
    (∃ t, exec (.sknp x) s = .next t ∧ OnlyPc s t ∧
      t.pc = s.pc + (if s.keyDown k = true then 2 else 4))

/-- R253, R255, R256: access to the timers. -/
def Obligations.TimerAccess : Prop :=
  ∀ (s : State) (x : Nibble),
    decodeWord (patX 0xF x 0x07) = .instr (.getDT x) ∧
    (∃ t, exec (.getDT x) s = .next t ∧ OnlyRegs [x] s t ∧ t.readV x = s.DT) ∧
    decodeWord (patX 0xF x 0x15) = .instr (.setDT x) ∧
    (∃ t, exec (.setDT x) s = .next t ∧ t = { s with DT := s.readV x, pc := s.pc + 2 } ∧
      SameMemory s t) ∧
    decodeWord (patX 0xF x 0x18) = .instr (.setST x) ∧
    (∃ t, exec (.setST x) s = .next t ∧ t = { s with ST := s.readV x, pc := s.pc + 2 } ∧
      SameMemory s t ∧ (t.soundActive = true ↔ s.readV x ≠ 0))

/-- R254 (decision D14, log entry 9): `Fx0A` begins the wait and writes no register; steps then change nothing; a later press of a key
that was up puts its number into `V[x]` and ends the wait, a release or a held key does not. -/
def Obligations.KeyWaitInstruction : Prop :=
  ∀ (s : State) (x : Nibble),
    decodeWord (patX 0xF x 0x0A) = .instr (.waitKey x) ∧
    ∃ t, exec (.waitKey x) s = .next t ∧
      t = { s with waiting := true, waitReg := x, pc := s.pc + 2 } ∧ SameMemory s t ∧
      step t = .next t ∧
      (∀ k, s.keyDown k = false → ∃ u, (transact (.setKey k true) t).2 = u ∧
        (u.readV x).toNat = k.toNat ∧ u.waiting = false ∧ u.keyDown k = true ∧ u.pc = s.pc + 2) ∧
      (∀ k, s.keyDown k = true → (transact (.setKey k true) t).2.waiting = true) ∧
      (∀ k, (transact (.setKey k false) t).2.waiting = true)

/-! ### The host's transactions -/

/-- 40_cycle_and_host.md R130 (decisions D14, D30, log entry 9): `set_key` writes the level; a press during a key wait also captures. -/
def Obligations.SetKeyWritesAndCaptures : Prop :=
  ∀ (s : State) (k : Nibble) (down : Bool), ∃ u, transact (.setKey k down) s = (.ok, u) ∧
    (∀ j, u.keyDown j = if j = k then down else s.keyDown j) ∧
    (s.waiting = true ∧ down = true ∧ s.keyDown k = false →
      (u.readV s.waitReg).toNat = k.toNat ∧ u.waiting = false ∧
      KeepsRegsBut [s.waitReg] s u ∧ u = { s with V := u.V, Key := u.Key, waiting := false }) ∧
    (¬ (s.waiting = true ∧ down = true ∧ s.keyDown k = false) → u = { s with Key := u.Key })

/-- R129: `tick` counts both timers down, each stopping at 0, and touches nothing else. -/
def Obligations.TickCountsTimersDown : Prop :=
  ∀ s : State, ∃ u, transact .tick s = (.ok, u) ∧
    u.DT.toNat = s.DT.toNat - 1 ∧ u.ST.toNat = s.ST.toNat - 1 ∧
    u = { s with DT := u.DT, ST := u.ST }

/-- R131 (decision D19), 20_memory.md R80: `load` writes `bytes[i]` at `0x200 + i` and nothing else, or, above 3584 bytes,
nothing at all. -/
def Obligations.LoadIsAllOrNothing : Prop :=
  ∀ (s : State) (bytes : List Byte),
    (3584 < bytes.length → transact (.load bytes) s = (.tooLarge, s)) ∧
    (bytes.length ≤ 3584 → ∃ u, transact (.load bytes) s = (.ok, u) ∧ u = { s with Mem := u.Mem } ∧
      ∀ a : Addr, u.memRead a =
        if h : 0x200 ≤ a.toNat ∧ a.toNat - 0x200 < bytes.length then bytes[a.toNat - 0x200] else s.memRead a)

/-- R132 with 10_state.md R45 (`pc` by decision D1, the font's bytes by D10, reset at any time by D20; log
entries 5, 21): after a reset every piece of the spec's state has the
value of the table, every byte of memory included, from any state before. -/
def Obligations.ResetGivesTheResetValues : Prop :=
  ∀ s : State, ∃ u, transact .reset s = (.ok, u) ∧
    (∀ x, u.readV x = 0) ∧ u.I = 0 ∧ u.pc = 0x0200 ∧ u.sp.val = 0 ∧ (∀ k : Fin 16, u.Stack[k] = 0) ∧
    u.DT = 0 ∧ u.ST = 0 ∧ (∀ px py, u.pixel px py = false) ∧ (∀ k, u.keyDown k = false) ∧
    u.waiting = false ∧ u.waitReg = 0 ∧
    (∀ a : Addr, u.memRead a =
      if h : 0x050 ≤ a.toNat ∧ a.toNat ≤ 0x09F then config.font[a.toNat - 0x050] else 0) ∧
    u.soundActive = false ∧ (∀ b ∈ u.displaySnapshot, b = false)

/-- 70_reset_and_hazards.md R312 (decision D1, log entry 21): after a reset and a load, the first instruction fetched is at 0x0200, the
first two bytes of the image. -/
def Obligations.FirstFetchIsTheFirstLoadedWord : Prop :=
  ∀ (s : State) (hi lo : Byte) (rest : List Byte), rest.length + 2 ≤ 3584 →
    ∃ u, (runTransactions [.reset, .load (hi :: lo :: rest)] s) = ([.ok, .ok], u) ∧
      u.waiting = false ∧ u.pc.toNat = 0x200 ∧ InRange u ∧ u.fetch = hi ++ lo

/-- R138, with R75 and 60_exceptions.md R280: what the host's transactions other than `step` and `reset`
cannot change. -/
def Obligations.HostTransactionsLeaveAlone : Prop :=
  ∀ (s : State) (t : Transaction), t ≠ .step → t ≠ .reset → ∃ u, (transact t s).2 = u ∧
    u.I = s.I ∧ u.pc = s.pc ∧ u.sp = s.sp ∧ u.Stack = s.Stack ∧ u.Disp = s.Disp ∧
    (∀ r, s.waiting = false ∨ r ≠ s.waitReg → u.readV r = s.readV r) ∧
    (t ≠ .tick → u.DT = s.DT ∧ u.ST = s.ST) ∧
    (∀ a : Addr, a.toNat < 0x200 → u.memRead a = s.memRead a) ∧
    ((∀ bytes, t ≠ .load bytes) → u.Mem = s.Mem)

/-- R133, R134: the outputs. -/
def Obligations.OutputsShowDisplayAndSound : Prop :=
  ∀ s : State, s.displaySnapshot.length = 2048 ∧
    (∀ (px : Fin 64) (py : Fin 32), s.displaySnapshot[py.val * 64 + px.val]? = some (s.pixel px py)) ∧
    (s.soundActive = true ↔ 0 < s.ST.toNat)

/-! ### Whole-machine rules -/

/-- 10_state.md R47: the invariant holds after reset. -/
def Obligations.ResetMeetsTheInvariant : Prop := Inv State.reset

/-- 10_state.md R47, 20_memory.md R68: every step keeps the invariant, from every state that has it. -/
def Obligations.StepKeepsTheInvariant : Prop :=
  ∀ s t : State, Inv s → step s = .next t → Inv t

/-- 10_state.md R47 over the host's interleavings (40_cycle_and_host.md R120, R136): every list of
transactions keeps the invariant. -/
def Obligations.TransactionsKeepTheInvariant : Prop :=
  ∀ (ts : List Transaction) (s : State), Inv s → Inv (runTransactions ts s).2

/-- 10_state.md R47, its key-wait clause: every transaction but `load` keeps it. -/
def Obligations.KeyWaitPointsBackAtItsInstruction : Prop :=
  WaitInv State.reset ∧
  ∀ (s : State) (t : Transaction), (∀ bytes, t ≠ .load bytes) → WaitInv s → WaitInv (transact t s).2

/-- 10_state.md R22, R30, R33 to R38, 20_memory.md R64: which rows may change which state. -/
def Obligations.OnlyTheNamedRowsChangeEachState : Prop :=
  ∀ (s t : State) (i : Instr), exec i s = .next t →
    t.Key = s.Key ∧
    (t.Disp ≠ s.Disp → i.row ∈ [Row.cls, .drw]) ∧
    (t.Stack ≠ s.Stack → i.row ∈ [Row.call]) ∧
    (t.sp ≠ s.sp → i.row ∈ [Row.call, .ret]) ∧
    (t.I ≠ s.I → i.row ∈ [Row.ldI, .addI, .ldF]) ∧
    (t.DT ≠ s.DT → i.row ∈ [Row.setDT]) ∧
    (t.ST ≠ s.ST → i.row ∈ [Row.setST]) ∧
    ((t.waiting ≠ s.waiting ∨ t.waitReg ≠ s.waitReg) → i.row ∈ [Row.waitKey]) ∧
    (t.Mem ≠ s.Mem → i.row ∈ [Row.bcd, .storeRegs]) ∧
    (t.V ≠ s.V → i.row ∈ [Row.ldImm, .addImm, .ldReg, .orReg, .andReg, .xorReg, .addReg, .subReg,
      .shr, .subnReg, .shl, .rnd, .drw, .getDT, .loadRegs])

/-- 10_state.md R26 (derived there): how each instruction leaves `pc`. -/
def Obligations.ProgramCounterAfterEachInstruction : Prop :=
  ∀ (s t : State) (i : Instr), exec i s = .next t →
    match i with
    | .jp nnn | .call nnn => t.pc.toNat = nnn.toNat
    | .jpV0 nnn => t.pc.toNat = nnn.toNat + (s.readV 0).toNat
    | .ret => ∀ k : Fin 16, k.val + 1 = s.sp.val → t.pc = s.Stack[k]
    | .seImm _ _ | .sneImm _ _ | .seReg _ _ | .sneReg _ _ | .skp _ | .sknp _ =>
      t.pc = s.pc + 2 ∨ t.pc = s.pc + 4
    | _ => t.pc = s.pc + 2

/-- 10_state.md R35: no instruction reads `ST`: a step from a state that differs in `ST` alone ends the same
way, in a state that differs in `ST` alone. -/
def Obligations.SoundTimerIsReadByNoInstruction : Prop :=
  ∀ (s : State) (v : Byte),
    (∀ f, step s = .fault f → step { s with ST := v } = .fault f) ∧
    (∀ t, step s = .next t → ∃ w, step { s with ST := v } = .next { t with ST := w })

/-- 10_state.md R31 (decision D26): stack entries at and above `sp` cannot be observed: a step from a state
that differs in them alone ends the same way, in a state that differs in dead entries alone. -/
def Obligations.DeadStackEntriesAreNotObservable : Prop :=
  ∀ (s : State) (st : Vector Word 16), (∀ k : Fin 16, k.val < s.sp.val → st[k] = s.Stack[k]) →
    (∀ f, step s = .fault f → step { s with Stack := st } = .fault f) ∧
    (∀ t, step s = .next t → ∃ st', step { s with Stack := st } = .next { t with Stack := st' } ∧
      ∀ k : Fin 16, k.val < t.sp.val → st'[k] = t.Stack[k])

/-- 40_cycle_and_host.md R135: only `Cxkk` reads the random byte: any other step from a state at another
draw ends the same way, at that draw. -/
def Obligations.OnlyRandomReadsTheRandomByte : Prop :=
  ∀ (s : State) (d : Nat), (∀ x kk, decodeWord s.fetch ≠ .instr (.rnd x kk)) →
    (∀ f, step s = .fault f → step { s with draws := d } = .fault f) ∧
    (∀ t, step s = .next t → t.draws = s.draws ∧ step { s with draws := d } = .next { t with draws := d })

/-- 10_state.md R40, 20_memory.md R67: a memory in the model's canonical form is determined by what its 4096
bytes read as (the form is the model's own, log entry 10). -/
def Obligations.CanonicalMemoryIsItsBytes : Prop :=
  ∀ m m' : Memory, m.wf = true → m'.wf = true → (∀ a, a < 4096 → m.read a = m'.read a) → m = m'

/-- 70_reset_and_hazards.md R314 (derived there), 30_encoding.md R100: a step that fetches two zero bytes
reports `UnknownOpcode(0x0000)` and advances `pc` by 2. So a state whose bytes from `pc` on are all zero
steps, with that event and no other change, until `pc` has passed 0x0FFE, and every further step faults and
changes nothing; after a reset this takes 1792 steps. -/
def Obligations.EmptyMemoryRunsToTheEnd : Prop :=
  (∀ s : State, s.waiting = false → InRange s →
    s.memRead (BitVec.ofNat 12 s.pc.toNat) = 0 → s.memRead (BitVec.ofNat 12 (s.pc.toNat + 1)) = 0 →
    transact .step s = (.unknownOpcode 0x0000, { s with pc := s.pc + 2 })) ∧
  (∀ s : State, s.waiting = false → InRange s →
    (∀ a : Addr, s.pc.toNat ≤ a.toNat → s.memRead a = 0) →
    ∀ k, s.pc.toNat + 2 * k ≤ 0x1000 →
      runTransactions (List.replicate k .step) s =
        (List.replicate k (.unknownOpcode 0x0000), { s with pc := s.pc + BitVec.ofNat 16 (2 * k) }) ∧
      (0x0FFE < s.pc.toNat + 2 * k → ∀ j,
        runTransactions (List.replicate (k + j) .step) s =
          (List.replicate k (.unknownOpcode 0x0000) ++ List.replicate j (.err .pcOutOfRange),
            { s with pc := s.pc + BitVec.ofNat 16 (2 * k) }))) ∧
  (∀ (s : State) (j : Nat),
    runTransactions (.reset :: List.replicate (1792 + j) .step) s =
      (.ok :: (List.replicate 1792 (.unknownOpcode 0x0000) ++ List.replicate j (.err .pcOutOfRange)),
        { (transact .reset s).2 with pc := 0x1000 }))
end

