-- ==== Sys2Proof/Laws/State.lean ====
section
/-! SUPPORT. What each update of the state does to each field: one lemma per field per update, so that no
proof unfolds a record update. -/

namespace Sys2Proof.Machine

variable (s : State)

/-! `writeV` -/

@[simp] theorem State.writeV_V (x : Nibble) (b : Byte) : (s.writeV x b).V = s.V.set x.toNat b x.isLt := rfl
@[simp] theorem State.writeV_I (x : Nibble) (b : Byte) : (s.writeV x b).I = s.I := rfl
@[simp] theorem State.writeV_pc (x : Nibble) (b : Byte) : (s.writeV x b).pc = s.pc := rfl
@[simp] theorem State.writeV_sp (x : Nibble) (b : Byte) : (s.writeV x b).sp = s.sp := rfl
@[simp] theorem State.writeV_Stack (x : Nibble) (b : Byte) : (s.writeV x b).Stack = s.Stack := rfl
@[simp] theorem State.writeV_DT (x : Nibble) (b : Byte) : (s.writeV x b).DT = s.DT := rfl
@[simp] theorem State.writeV_ST (x : Nibble) (b : Byte) : (s.writeV x b).ST = s.ST := rfl
@[simp] theorem State.writeV_Disp (x : Nibble) (b : Byte) : (s.writeV x b).Disp = s.Disp := rfl
@[simp] theorem State.writeV_Key (x : Nibble) (b : Byte) : (s.writeV x b).Key = s.Key := rfl
@[simp] theorem State.writeV_waiting (x : Nibble) (b : Byte) : (s.writeV x b).waiting = s.waiting := rfl
@[simp] theorem State.writeV_waitReg (x : Nibble) (b : Byte) : (s.writeV x b).waitReg = s.waitReg := rfl
@[simp] theorem State.writeV_Mem (x : Nibble) (b : Byte) : (s.writeV x b).Mem = s.Mem := rfl
@[simp] theorem State.writeV_draws (x : Nibble) (b : Byte) : (s.writeV x b).draws = s.draws := rfl

/-! `writeVF` -/

@[simp] theorem State.writeVF_V (f : Byte) : (s.writeVF f).V = s.V.set 15 f (by decide) := rfl
@[simp] theorem State.writeVF_I (f : Byte) : (s.writeVF f).I = s.I := rfl
@[simp] theorem State.writeVF_pc (f : Byte) : (s.writeVF f).pc = s.pc := rfl
@[simp] theorem State.writeVF_sp (f : Byte) : (s.writeVF f).sp = s.sp := rfl
@[simp] theorem State.writeVF_Stack (f : Byte) : (s.writeVF f).Stack = s.Stack := rfl
@[simp] theorem State.writeVF_DT (f : Byte) : (s.writeVF f).DT = s.DT := rfl
@[simp] theorem State.writeVF_ST (f : Byte) : (s.writeVF f).ST = s.ST := rfl
@[simp] theorem State.writeVF_Disp (f : Byte) : (s.writeVF f).Disp = s.Disp := rfl
@[simp] theorem State.writeVF_Key (f : Byte) : (s.writeVF f).Key = s.Key := rfl
@[simp] theorem State.writeVF_waiting (f : Byte) : (s.writeVF f).waiting = s.waiting := rfl
@[simp] theorem State.writeVF_waitReg (f : Byte) : (s.writeVF f).waitReg = s.waitReg := rfl
@[simp] theorem State.writeVF_Mem (f : Byte) : (s.writeVF f).Mem = s.Mem := rfl
@[simp] theorem State.writeVF_draws (f : Byte) : (s.writeVF f).draws = s.draws := rfl

/-! `writeI` -/

@[simp] theorem State.writeI_V (w : Word) : (s.writeI w).V = s.V := rfl
@[simp] theorem State.writeI_I (w : Word) : (s.writeI w).I = w := rfl
@[simp] theorem State.writeI_pc (w : Word) : (s.writeI w).pc = s.pc := rfl
@[simp] theorem State.writeI_sp (w : Word) : (s.writeI w).sp = s.sp := rfl
@[simp] theorem State.writeI_Stack (w : Word) : (s.writeI w).Stack = s.Stack := rfl
@[simp] theorem State.writeI_DT (w : Word) : (s.writeI w).DT = s.DT := rfl
@[simp] theorem State.writeI_ST (w : Word) : (s.writeI w).ST = s.ST := rfl
@[simp] theorem State.writeI_Disp (w : Word) : (s.writeI w).Disp = s.Disp := rfl
@[simp] theorem State.writeI_Key (w : Word) : (s.writeI w).Key = s.Key := rfl
@[simp] theorem State.writeI_waiting (w : Word) : (s.writeI w).waiting = s.waiting := rfl
@[simp] theorem State.writeI_waitReg (w : Word) : (s.writeI w).waitReg = s.waitReg := rfl
@[simp] theorem State.writeI_Mem (w : Word) : (s.writeI w).Mem = s.Mem := rfl
@[simp] theorem State.writeI_draws (w : Word) : (s.writeI w).draws = s.draws := rfl

/-! `writeDT` -/

@[simp] theorem State.writeDT_V (b : Byte) : (s.writeDT b).V = s.V := rfl
@[simp] theorem State.writeDT_I (b : Byte) : (s.writeDT b).I = s.I := rfl
@[simp] theorem State.writeDT_pc (b : Byte) : (s.writeDT b).pc = s.pc := rfl
@[simp] theorem State.writeDT_sp (b : Byte) : (s.writeDT b).sp = s.sp := rfl
@[simp] theorem State.writeDT_Stack (b : Byte) : (s.writeDT b).Stack = s.Stack := rfl
@[simp] theorem State.writeDT_DT (b : Byte) : (s.writeDT b).DT = b := rfl
@[simp] theorem State.writeDT_ST (b : Byte) : (s.writeDT b).ST = s.ST := rfl
@[simp] theorem State.writeDT_Disp (b : Byte) : (s.writeDT b).Disp = s.Disp := rfl
@[simp] theorem State.writeDT_Key (b : Byte) : (s.writeDT b).Key = s.Key := rfl
@[simp] theorem State.writeDT_waiting (b : Byte) : (s.writeDT b).waiting = s.waiting := rfl
@[simp] theorem State.writeDT_waitReg (b : Byte) : (s.writeDT b).waitReg = s.waitReg := rfl
@[simp] theorem State.writeDT_Mem (b : Byte) : (s.writeDT b).Mem = s.Mem := rfl
@[simp] theorem State.writeDT_draws (b : Byte) : (s.writeDT b).draws = s.draws := rfl

/-! `writeST` -/

@[simp] theorem State.writeST_V (b : Byte) : (s.writeST b).V = s.V := rfl
@[simp] theorem State.writeST_I (b : Byte) : (s.writeST b).I = s.I := rfl
@[simp] theorem State.writeST_pc (b : Byte) : (s.writeST b).pc = s.pc := rfl
@[simp] theorem State.writeST_sp (b : Byte) : (s.writeST b).sp = s.sp := rfl
@[simp] theorem State.writeST_Stack (b : Byte) : (s.writeST b).Stack = s.Stack := rfl
@[simp] theorem State.writeST_DT (b : Byte) : (s.writeST b).DT = s.DT := rfl
@[simp] theorem State.writeST_ST (b : Byte) : (s.writeST b).ST = b := rfl
@[simp] theorem State.writeST_Disp (b : Byte) : (s.writeST b).Disp = s.Disp := rfl
@[simp] theorem State.writeST_Key (b : Byte) : (s.writeST b).Key = s.Key := rfl
@[simp] theorem State.writeST_waiting (b : Byte) : (s.writeST b).waiting = s.waiting := rfl
@[simp] theorem State.writeST_waitReg (b : Byte) : (s.writeST b).waitReg = s.waitReg := rfl
@[simp] theorem State.writeST_Mem (b : Byte) : (s.writeST b).Mem = s.Mem := rfl
@[simp] theorem State.writeST_draws (b : Byte) : (s.writeST b).draws = s.draws := rfl

/-! `writePc` -/

@[simp] theorem State.writePc_V (w : Word) : (s.writePc w).V = s.V := rfl
@[simp] theorem State.writePc_I (w : Word) : (s.writePc w).I = s.I := rfl
@[simp] theorem State.writePc_pc (w : Word) : (s.writePc w).pc = w := rfl
@[simp] theorem State.writePc_sp (w : Word) : (s.writePc w).sp = s.sp := rfl
@[simp] theorem State.writePc_Stack (w : Word) : (s.writePc w).Stack = s.Stack := rfl
@[simp] theorem State.writePc_DT (w : Word) : (s.writePc w).DT = s.DT := rfl
@[simp] theorem State.writePc_ST (w : Word) : (s.writePc w).ST = s.ST := rfl
@[simp] theorem State.writePc_Disp (w : Word) : (s.writePc w).Disp = s.Disp := rfl
@[simp] theorem State.writePc_Key (w : Word) : (s.writePc w).Key = s.Key := rfl
@[simp] theorem State.writePc_waiting (w : Word) : (s.writePc w).waiting = s.waiting := rfl
@[simp] theorem State.writePc_waitReg (w : Word) : (s.writePc w).waitReg = s.waitReg := rfl
@[simp] theorem State.writePc_Mem (w : Word) : (s.writePc w).Mem = s.Mem := rfl
@[simp] theorem State.writePc_draws (w : Word) : (s.writePc w).draws = s.draws := rfl

/-! `advance` -/

@[simp] theorem State.advance_V : s.advance.V = s.V := rfl
@[simp] theorem State.advance_I : s.advance.I = s.I := rfl
@[simp] theorem State.advance_pc : s.advance.pc = s.pc + 2 := rfl
@[simp] theorem State.advance_sp : s.advance.sp = s.sp := rfl
@[simp] theorem State.advance_Stack : s.advance.Stack = s.Stack := rfl
@[simp] theorem State.advance_DT : s.advance.DT = s.DT := rfl
@[simp] theorem State.advance_ST : s.advance.ST = s.ST := rfl
@[simp] theorem State.advance_Disp : s.advance.Disp = s.Disp := rfl
@[simp] theorem State.advance_Key : s.advance.Key = s.Key := rfl
@[simp] theorem State.advance_waiting : s.advance.waiting = s.waiting := rfl
@[simp] theorem State.advance_waitReg : s.advance.waitReg = s.waitReg := rfl
@[simp] theorem State.advance_Mem : s.advance.Mem = s.Mem := rfl
@[simp] theorem State.advance_draws : s.advance.draws = s.draws := rfl

/-! `skipIf` -/

@[simp] theorem State.skipIf_V (c : Bool) : (s.skipIf c).V = s.V := by
  unfold State.skipIf; split <;> rfl
@[simp] theorem State.skipIf_I (c : Bool) : (s.skipIf c).I = s.I := by
  unfold State.skipIf; split <;> rfl
@[simp] theorem State.skipIf_pc (c : Bool) : (s.skipIf c).pc = if c then s.pc + 2 else s.pc := by
  unfold State.skipIf; split <;> rfl
@[simp] theorem State.skipIf_sp (c : Bool) : (s.skipIf c).sp = s.sp := by
  unfold State.skipIf; split <;> rfl
@[simp] theorem State.skipIf_Stack (c : Bool) : (s.skipIf c).Stack = s.Stack := by
  unfold State.skipIf; split <;> rfl
@[simp] theorem State.skipIf_DT (c : Bool) : (s.skipIf c).DT = s.DT := by
  unfold State.skipIf; split <;> rfl
@[simp] theorem State.skipIf_ST (c : Bool) : (s.skipIf c).ST = s.ST := by
  unfold State.skipIf; split <;> rfl
@[simp] theorem State.skipIf_Disp (c : Bool) : (s.skipIf c).Disp = s.Disp := by
  unfold State.skipIf; split <;> rfl
@[simp] theorem State.skipIf_Key (c : Bool) : (s.skipIf c).Key = s.Key := by
  unfold State.skipIf; split <;> rfl
@[simp] theorem State.skipIf_waiting (c : Bool) : (s.skipIf c).waiting = s.waiting := by
  unfold State.skipIf; split <;> rfl
@[simp] theorem State.skipIf_waitReg (c : Bool) : (s.skipIf c).waitReg = s.waitReg := by
  unfold State.skipIf; split <;> rfl
@[simp] theorem State.skipIf_Mem (c : Bool) : (s.skipIf c).Mem = s.Mem := by
  unfold State.skipIf; split <;> rfl
@[simp] theorem State.skipIf_draws (c : Bool) : (s.skipIf c).draws = s.draws := by
  unfold State.skipIf; split <;> rfl

/-! `nextDraw` -/

@[simp] theorem State.nextDraw_V : s.nextDraw.V = s.V := rfl
@[simp] theorem State.nextDraw_I : s.nextDraw.I = s.I := rfl
@[simp] theorem State.nextDraw_pc : s.nextDraw.pc = s.pc := rfl
@[simp] theorem State.nextDraw_sp : s.nextDraw.sp = s.sp := rfl
@[simp] theorem State.nextDraw_Stack : s.nextDraw.Stack = s.Stack := rfl
@[simp] theorem State.nextDraw_DT : s.nextDraw.DT = s.DT := rfl
@[simp] theorem State.nextDraw_ST : s.nextDraw.ST = s.ST := rfl
@[simp] theorem State.nextDraw_Disp : s.nextDraw.Disp = s.Disp := rfl
@[simp] theorem State.nextDraw_Key : s.nextDraw.Key = s.Key := rfl
@[simp] theorem State.nextDraw_waiting : s.nextDraw.waiting = s.waiting := rfl
@[simp] theorem State.nextDraw_waitReg : s.nextDraw.waitReg = s.waitReg := rfl
@[simp] theorem State.nextDraw_Mem : s.nextDraw.Mem = s.Mem := rfl
@[simp] theorem State.nextDraw_draws : s.nextDraw.draws = s.draws + 1 := rfl

/-! `memWrite` -/

@[simp] theorem State.memWrite_V (a : Addr) (b : Byte) : (s.memWrite a b).V = s.V := rfl
@[simp] theorem State.memWrite_I (a : Addr) (b : Byte) : (s.memWrite a b).I = s.I := rfl
@[simp] theorem State.memWrite_pc (a : Addr) (b : Byte) : (s.memWrite a b).pc = s.pc := rfl
@[simp] theorem State.memWrite_sp (a : Addr) (b : Byte) : (s.memWrite a b).sp = s.sp := rfl
@[simp] theorem State.memWrite_Stack (a : Addr) (b : Byte) : (s.memWrite a b).Stack = s.Stack := rfl
@[simp] theorem State.memWrite_DT (a : Addr) (b : Byte) : (s.memWrite a b).DT = s.DT := rfl
@[simp] theorem State.memWrite_ST (a : Addr) (b : Byte) : (s.memWrite a b).ST = s.ST := rfl
@[simp] theorem State.memWrite_Disp (a : Addr) (b : Byte) : (s.memWrite a b).Disp = s.Disp := rfl
@[simp] theorem State.memWrite_Key (a : Addr) (b : Byte) : (s.memWrite a b).Key = s.Key := rfl
@[simp] theorem State.memWrite_waiting (a : Addr) (b : Byte) : (s.memWrite a b).waiting = s.waiting := rfl
@[simp] theorem State.memWrite_waitReg (a : Addr) (b : Byte) : (s.memWrite a b).waitReg = s.waitReg := rfl
@[simp] theorem State.memWrite_Mem (a : Addr) (b : Byte) : (s.memWrite a b).Mem = s.Mem.write a.toNat b := rfl
@[simp] theorem State.memWrite_draws (a : Addr) (b : Byte) : (s.memWrite a b).draws = s.draws := rfl

/-! `push` -/

@[simp] theorem State.push_V (w : Word) : (s.push w).V = s.V := by
  unfold State.push; split <;> rfl
@[simp] theorem State.push_I (w : Word) : (s.push w).I = s.I := by
  unfold State.push; split <;> rfl
@[simp] theorem State.push_pc (w : Word) : (s.push w).pc = s.pc := by
  unfold State.push; split <;> rfl
@[simp] theorem State.push_DT (w : Word) : (s.push w).DT = s.DT := by
  unfold State.push; split <;> rfl
@[simp] theorem State.push_ST (w : Word) : (s.push w).ST = s.ST := by
  unfold State.push; split <;> rfl
@[simp] theorem State.push_Disp (w : Word) : (s.push w).Disp = s.Disp := by
  unfold State.push; split <;> rfl
@[simp] theorem State.push_Key (w : Word) : (s.push w).Key = s.Key := by
  unfold State.push; split <;> rfl
@[simp] theorem State.push_waiting (w : Word) : (s.push w).waiting = s.waiting := by
  unfold State.push; split <;> rfl
@[simp] theorem State.push_waitReg (w : Word) : (s.push w).waitReg = s.waitReg := by
  unfold State.push; split <;> rfl
@[simp] theorem State.push_Mem (w : Word) : (s.push w).Mem = s.Mem := by
  unfold State.push; split <;> rfl
@[simp] theorem State.push_draws (w : Word) : (s.push w).draws = s.draws := by
  unfold State.push; split <;> rfl

/-! `popPc` -/

@[simp] theorem State.popPc_V : s.popPc.V = s.V := rfl
@[simp] theorem State.popPc_I : s.popPc.I = s.I := rfl
@[simp] theorem State.popPc_pc : s.popPc.pc = s.top := rfl
@[simp] theorem State.popPc_Stack : s.popPc.Stack = s.Stack := rfl
@[simp] theorem State.popPc_DT : s.popPc.DT = s.DT := rfl
@[simp] theorem State.popPc_ST : s.popPc.ST = s.ST := rfl
@[simp] theorem State.popPc_Disp : s.popPc.Disp = s.Disp := rfl
@[simp] theorem State.popPc_Key : s.popPc.Key = s.Key := rfl
@[simp] theorem State.popPc_waiting : s.popPc.waiting = s.waiting := rfl
@[simp] theorem State.popPc_waitReg : s.popPc.waitReg = s.waitReg := rfl
@[simp] theorem State.popPc_Mem : s.popPc.Mem = s.Mem := rfl
@[simp] theorem State.popPc_draws : s.popPc.draws = s.draws := rfl

/-! `togglePixel` -/

@[simp] theorem State.togglePixel_V (px : Fin 64) (py : Fin 32) : (s.togglePixel px py).V = s.V := rfl
@[simp] theorem State.togglePixel_I (px : Fin 64) (py : Fin 32) : (s.togglePixel px py).I = s.I := rfl
@[simp] theorem State.togglePixel_pc (px : Fin 64) (py : Fin 32) : (s.togglePixel px py).pc = s.pc := rfl
@[simp] theorem State.togglePixel_sp (px : Fin 64) (py : Fin 32) : (s.togglePixel px py).sp = s.sp := rfl
@[simp] theorem State.togglePixel_Stack (px : Fin 64) (py : Fin 32) : (s.togglePixel px py).Stack = s.Stack := rfl
@[simp] theorem State.togglePixel_DT (px : Fin 64) (py : Fin 32) : (s.togglePixel px py).DT = s.DT := rfl
@[simp] theorem State.togglePixel_ST (px : Fin 64) (py : Fin 32) : (s.togglePixel px py).ST = s.ST := rfl
@[simp] theorem State.togglePixel_Key (px : Fin 64) (py : Fin 32) : (s.togglePixel px py).Key = s.Key := rfl
@[simp] theorem State.togglePixel_waiting (px : Fin 64) (py : Fin 32) : (s.togglePixel px py).waiting = s.waiting := rfl
@[simp] theorem State.togglePixel_waitReg (px : Fin 64) (py : Fin 32) : (s.togglePixel px py).waitReg = s.waitReg := rfl
@[simp] theorem State.togglePixel_Mem (px : Fin 64) (py : Fin 32) : (s.togglePixel px py).Mem = s.Mem := rfl
@[simp] theorem State.togglePixel_draws (px : Fin 64) (py : Fin 32) : (s.togglePixel px py).draws = s.draws := rfl

/-! `clearDisp` -/

@[simp] theorem State.clearDisp_V : s.clearDisp.V = s.V := rfl
@[simp] theorem State.clearDisp_I : s.clearDisp.I = s.I := rfl
@[simp] theorem State.clearDisp_pc : s.clearDisp.pc = s.pc := rfl
@[simp] theorem State.clearDisp_sp : s.clearDisp.sp = s.sp := rfl
@[simp] theorem State.clearDisp_Stack : s.clearDisp.Stack = s.Stack := rfl
@[simp] theorem State.clearDisp_DT : s.clearDisp.DT = s.DT := rfl
@[simp] theorem State.clearDisp_ST : s.clearDisp.ST = s.ST := rfl
@[simp] theorem State.clearDisp_Disp : s.clearDisp.Disp = Vector.replicate 32 0 := rfl
@[simp] theorem State.clearDisp_Key : s.clearDisp.Key = s.Key := rfl
@[simp] theorem State.clearDisp_waiting : s.clearDisp.waiting = s.waiting := rfl
@[simp] theorem State.clearDisp_waitReg : s.clearDisp.waitReg = s.waitReg := rfl
@[simp] theorem State.clearDisp_Mem : s.clearDisp.Mem = s.Mem := rfl
@[simp] theorem State.clearDisp_draws : s.clearDisp.draws = s.draws := rfl

/-! `writeKey` -/

@[simp] theorem State.writeKey_V (k : Nibble) (down : Bool) : (s.writeKey k down).V = s.V := rfl
@[simp] theorem State.writeKey_I (k : Nibble) (down : Bool) : (s.writeKey k down).I = s.I := rfl
@[simp] theorem State.writeKey_pc (k : Nibble) (down : Bool) : (s.writeKey k down).pc = s.pc := rfl
@[simp] theorem State.writeKey_sp (k : Nibble) (down : Bool) : (s.writeKey k down).sp = s.sp := rfl
@[simp] theorem State.writeKey_Stack (k : Nibble) (down : Bool) : (s.writeKey k down).Stack = s.Stack := rfl
@[simp] theorem State.writeKey_DT (k : Nibble) (down : Bool) : (s.writeKey k down).DT = s.DT := rfl
@[simp] theorem State.writeKey_ST (k : Nibble) (down : Bool) : (s.writeKey k down).ST = s.ST := rfl
@[simp] theorem State.writeKey_Disp (k : Nibble) (down : Bool) : (s.writeKey k down).Disp = s.Disp := rfl
@[simp] theorem State.writeKey_Key (k : Nibble) (down : Bool) : (s.writeKey k down).Key = s.Key.set k.toNat down k.isLt := rfl
@[simp] theorem State.writeKey_waiting (k : Nibble) (down : Bool) : (s.writeKey k down).waiting = s.waiting := rfl
@[simp] theorem State.writeKey_waitReg (k : Nibble) (down : Bool) : (s.writeKey k down).waitReg = s.waitReg := rfl
@[simp] theorem State.writeKey_Mem (k : Nibble) (down : Bool) : (s.writeKey k down).Mem = s.Mem := rfl
@[simp] theorem State.writeKey_draws (k : Nibble) (down : Bool) : (s.writeKey k down).draws = s.draws := rfl

/-! `beginWait` -/

@[simp] theorem State.beginWait_V (x : Nibble) : (s.beginWait x).V = s.V := rfl
@[simp] theorem State.beginWait_I (x : Nibble) : (s.beginWait x).I = s.I := rfl
@[simp] theorem State.beginWait_pc (x : Nibble) : (s.beginWait x).pc = s.pc := rfl
@[simp] theorem State.beginWait_sp (x : Nibble) : (s.beginWait x).sp = s.sp := rfl
@[simp] theorem State.beginWait_Stack (x : Nibble) : (s.beginWait x).Stack = s.Stack := rfl
@[simp] theorem State.beginWait_DT (x : Nibble) : (s.beginWait x).DT = s.DT := rfl
@[simp] theorem State.beginWait_ST (x : Nibble) : (s.beginWait x).ST = s.ST := rfl
@[simp] theorem State.beginWait_Disp (x : Nibble) : (s.beginWait x).Disp = s.Disp := rfl
@[simp] theorem State.beginWait_Key (x : Nibble) : (s.beginWait x).Key = s.Key := rfl
@[simp] theorem State.beginWait_waiting (x : Nibble) : (s.beginWait x).waiting = true := rfl
@[simp] theorem State.beginWait_waitReg (x : Nibble) : (s.beginWait x).waitReg = x := rfl
@[simp] theorem State.beginWait_Mem (x : Nibble) : (s.beginWait x).Mem = s.Mem := rfl
@[simp] theorem State.beginWait_draws (x : Nibble) : (s.beginWait x).draws = s.draws := rfl

/-! `endWait` -/

@[simp] theorem State.endWait_V : s.endWait.V = s.V := rfl
@[simp] theorem State.endWait_I : s.endWait.I = s.I := rfl
@[simp] theorem State.endWait_pc : s.endWait.pc = s.pc := rfl
@[simp] theorem State.endWait_sp : s.endWait.sp = s.sp := rfl
@[simp] theorem State.endWait_Stack : s.endWait.Stack = s.Stack := rfl
@[simp] theorem State.endWait_DT : s.endWait.DT = s.DT := rfl
@[simp] theorem State.endWait_ST : s.endWait.ST = s.ST := rfl
@[simp] theorem State.endWait_Disp : s.endWait.Disp = s.Disp := rfl
@[simp] theorem State.endWait_Key : s.endWait.Key = s.Key := rfl
@[simp] theorem State.endWait_waiting : s.endWait.waiting = false := rfl
@[simp] theorem State.endWait_waitReg : s.endWait.waitReg = s.waitReg := rfl
@[simp] theorem State.endWait_Mem : s.endWait.Mem = s.Mem := rfl
@[simp] theorem State.endWait_draws : s.endWait.draws = s.draws := rfl

/-! Reads through the updates that leave what they read alone -/

@[simp] theorem State.readV_writeI (w : Word) (y : Nibble) : (s.writeI w).readV y = s.readV y := rfl
@[simp] theorem State.readV_writeDT (b : Byte) (y : Nibble) :
    (s.writeDT b).readV y = s.readV y := rfl
@[simp] theorem State.readV_writeST (b : Byte) (y : Nibble) :
    (s.writeST b).readV y = s.readV y := rfl
@[simp] theorem State.readV_writePc (w : Word) (y : Nibble) :
    (s.writePc w).readV y = s.readV y := rfl
@[simp] theorem State.readV_advance (y : Nibble) : s.advance.readV y = s.readV y := rfl
@[simp] theorem State.readV_skipIf (c : Bool) (y : Nibble) : (s.skipIf c).readV y = s.readV y := by
  unfold State.skipIf; split <;> rfl
@[simp] theorem State.readV_nextDraw (y : Nibble) : s.nextDraw.readV y = s.readV y := rfl
@[simp] theorem State.readV_memWrite (a : Addr) (b : Byte) (y : Nibble) :
    (s.memWrite a b).readV y = s.readV y := rfl
@[simp] theorem State.readV_push (w : Word) (y : Nibble) : (s.push w).readV y = s.readV y := by
  unfold State.push; split <;> rfl
@[simp] theorem State.readV_popPc (y : Nibble) : s.popPc.readV y = s.readV y := rfl
@[simp] theorem State.readV_togglePixel (px : Fin 64) (py : Fin 32) (y : Nibble) :
    (s.togglePixel px py).readV y = s.readV y := rfl
@[simp] theorem State.readV_clearDisp (y : Nibble) : s.clearDisp.readV y = s.readV y := rfl
@[simp] theorem State.readV_writeKey (k : Nibble) (down : Bool) (y : Nibble) :
    (s.writeKey k down).readV y = s.readV y := rfl
@[simp] theorem State.readV_beginWait (x : Nibble) (y : Nibble) :
    (s.beginWait x).readV y = s.readV y := rfl
@[simp] theorem State.readV_endWait (y : Nibble) : s.endWait.readV y = s.readV y := rfl

@[simp] theorem State.memRead_writeV (x : Nibble) (b : Byte) (adr : Addr) :
    (s.writeV x b).memRead adr = s.memRead adr := rfl
@[simp] theorem State.memRead_writeVF (f : Byte) (adr : Addr) :
    (s.writeVF f).memRead adr = s.memRead adr := rfl
@[simp] theorem State.memRead_writeI (w : Word) (adr : Addr) :
    (s.writeI w).memRead adr = s.memRead adr := rfl
@[simp] theorem State.memRead_writeDT (b : Byte) (adr : Addr) :
    (s.writeDT b).memRead adr = s.memRead adr := rfl
@[simp] theorem State.memRead_writeST (b : Byte) (adr : Addr) :
    (s.writeST b).memRead adr = s.memRead adr := rfl
@[simp] theorem State.memRead_writePc (w : Word) (adr : Addr) :
    (s.writePc w).memRead adr = s.memRead adr := rfl
@[simp] theorem State.memRead_advance (adr : Addr) : s.advance.memRead adr = s.memRead adr := rfl
@[simp] theorem State.memRead_skipIf (c : Bool) (adr : Addr) : (s.skipIf c).memRead adr = s.memRead adr := by
  unfold State.skipIf; split <;> rfl
@[simp] theorem State.memRead_nextDraw (adr : Addr) : s.nextDraw.memRead adr = s.memRead adr := rfl
@[simp] theorem State.memRead_push (w : Word) (adr : Addr) : (s.push w).memRead adr = s.memRead adr := by
  unfold State.push; split <;> rfl
@[simp] theorem State.memRead_popPc (adr : Addr) : s.popPc.memRead adr = s.memRead adr := rfl
@[simp] theorem State.memRead_togglePixel (px : Fin 64) (py : Fin 32) (adr : Addr) :
    (s.togglePixel px py).memRead adr = s.memRead adr := rfl
@[simp] theorem State.memRead_clearDisp (adr : Addr) :
    s.clearDisp.memRead adr = s.memRead adr := rfl
@[simp] theorem State.memRead_writeKey (k : Nibble) (down : Bool) (adr : Addr) :
    (s.writeKey k down).memRead adr = s.memRead adr := rfl
@[simp] theorem State.memRead_beginWait (x : Nibble) (adr : Addr) :
    (s.beginWait x).memRead adr = s.memRead adr := rfl
@[simp] theorem State.memRead_endWait (adr : Addr) : s.endWait.memRead adr = s.memRead adr := rfl

@[simp] theorem State.pixel_writeV (x : Nibble) (b : Byte) (qx : Fin 64) (qy : Fin 32) :
    (s.writeV x b).pixel qx qy = s.pixel qx qy := rfl
@[simp] theorem State.pixel_writeVF (f : Byte) (qx : Fin 64) (qy : Fin 32) :
    (s.writeVF f).pixel qx qy = s.pixel qx qy := rfl
@[simp] theorem State.pixel_writeI (w : Word) (qx : Fin 64) (qy : Fin 32) :
    (s.writeI w).pixel qx qy = s.pixel qx qy := rfl
@[simp] theorem State.pixel_writeDT (b : Byte) (qx : Fin 64) (qy : Fin 32) :
    (s.writeDT b).pixel qx qy = s.pixel qx qy := rfl
@[simp] theorem State.pixel_writeST (b : Byte) (qx : Fin 64) (qy : Fin 32) :
    (s.writeST b).pixel qx qy = s.pixel qx qy := rfl
@[simp] theorem State.pixel_writePc (w : Word) (qx : Fin 64) (qy : Fin 32) :
    (s.writePc w).pixel qx qy = s.pixel qx qy := rfl
@[simp] theorem State.pixel_advance (qx : Fin 64) (qy : Fin 32) :
    s.advance.pixel qx qy = s.pixel qx qy := rfl
@[simp] theorem State.pixel_skipIf (c : Bool) (qx : Fin 64) (qy : Fin 32) : (s.skipIf c).pixel qx qy = s.pixel qx qy := by
  unfold State.skipIf; split <;> rfl
@[simp] theorem State.pixel_nextDraw (qx : Fin 64) (qy : Fin 32) :
    s.nextDraw.pixel qx qy = s.pixel qx qy := rfl
@[simp] theorem State.pixel_memWrite (a : Addr) (b : Byte) (qx : Fin 64) (qy : Fin 32) :
    (s.memWrite a b).pixel qx qy = s.pixel qx qy := rfl
@[simp] theorem State.pixel_push (w : Word) (qx : Fin 64) (qy : Fin 32) : (s.push w).pixel qx qy = s.pixel qx qy := by
  unfold State.push; split <;> rfl
@[simp] theorem State.pixel_popPc (qx : Fin 64) (qy : Fin 32) :
    s.popPc.pixel qx qy = s.pixel qx qy := rfl
@[simp] theorem State.pixel_writeKey (k : Nibble) (down : Bool) (qx : Fin 64) (qy : Fin 32) :
    (s.writeKey k down).pixel qx qy = s.pixel qx qy := rfl
@[simp] theorem State.pixel_beginWait (x : Nibble) (qx : Fin 64) (qy : Fin 32) :
    (s.beginWait x).pixel qx qy = s.pixel qx qy := rfl
@[simp] theorem State.pixel_endWait (qx : Fin 64) (qy : Fin 32) :
    s.endWait.pixel qx qy = s.pixel qx qy := rfl

@[simp] theorem State.keyDown_writeV (x : Nibble) (b : Byte) (j : Nibble) :
    (s.writeV x b).keyDown j = s.keyDown j := rfl
@[simp] theorem State.keyDown_writeVF (f : Byte) (j : Nibble) :
    (s.writeVF f).keyDown j = s.keyDown j := rfl
@[simp] theorem State.keyDown_writeI (w : Word) (j : Nibble) :
    (s.writeI w).keyDown j = s.keyDown j := rfl
@[simp] theorem State.keyDown_writeDT (b : Byte) (j : Nibble) :
    (s.writeDT b).keyDown j = s.keyDown j := rfl
@[simp] theorem State.keyDown_writeST (b : Byte) (j : Nibble) :
    (s.writeST b).keyDown j = s.keyDown j := rfl
@[simp] theorem State.keyDown_writePc (w : Word) (j : Nibble) :
    (s.writePc w).keyDown j = s.keyDown j := rfl
@[simp] theorem State.keyDown_advance (j : Nibble) : s.advance.keyDown j = s.keyDown j := rfl
@[simp] theorem State.keyDown_skipIf (c : Bool) (j : Nibble) : (s.skipIf c).keyDown j = s.keyDown j := by
  unfold State.skipIf; split <;> rfl
@[simp] theorem State.keyDown_nextDraw (j : Nibble) : s.nextDraw.keyDown j = s.keyDown j := rfl
@[simp] theorem State.keyDown_memWrite (a : Addr) (b : Byte) (j : Nibble) :
    (s.memWrite a b).keyDown j = s.keyDown j := rfl
@[simp] theorem State.keyDown_push (w : Word) (j : Nibble) : (s.push w).keyDown j = s.keyDown j := by
  unfold State.push; split <;> rfl
@[simp] theorem State.keyDown_popPc (j : Nibble) : s.popPc.keyDown j = s.keyDown j := rfl
@[simp] theorem State.keyDown_togglePixel (px : Fin 64) (py : Fin 32) (j : Nibble) :
    (s.togglePixel px py).keyDown j = s.keyDown j := rfl
@[simp] theorem State.keyDown_clearDisp (j : Nibble) : s.clearDisp.keyDown j = s.keyDown j := rfl
@[simp] theorem State.keyDown_beginWait (x : Nibble) (j : Nibble) :
    (s.beginWait x).keyDown j = s.keyDown j := rfl
@[simp] theorem State.keyDown_endWait (j : Nibble) : s.endWait.keyDown j = s.keyDown j := rfl

@[simp] theorem State.ea_writeV (x : Nibble) (b : Byte) (m : Nat) :
    (s.writeV x b).ea m = s.ea m := rfl
@[simp] theorem State.ea_writeVF (f : Byte) (m : Nat) : (s.writeVF f).ea m = s.ea m := rfl
@[simp] theorem State.ea_writeDT (b : Byte) (m : Nat) : (s.writeDT b).ea m = s.ea m := rfl
@[simp] theorem State.ea_writeST (b : Byte) (m : Nat) : (s.writeST b).ea m = s.ea m := rfl
@[simp] theorem State.ea_writePc (w : Word) (m : Nat) : (s.writePc w).ea m = s.ea m := rfl
@[simp] theorem State.ea_advance (m : Nat) : s.advance.ea m = s.ea m := rfl
@[simp] theorem State.ea_skipIf (c : Bool) (m : Nat) : (s.skipIf c).ea m = s.ea m := by
  unfold State.skipIf; split <;> rfl
@[simp] theorem State.ea_nextDraw (m : Nat) : s.nextDraw.ea m = s.ea m := rfl
@[simp] theorem State.ea_memWrite (a : Addr) (b : Byte) (m : Nat) :
    (s.memWrite a b).ea m = s.ea m := rfl
@[simp] theorem State.ea_push (w : Word) (m : Nat) : (s.push w).ea m = s.ea m := by
  unfold State.push; split <;> rfl
@[simp] theorem State.ea_popPc (m : Nat) : s.popPc.ea m = s.ea m := rfl
@[simp] theorem State.ea_togglePixel (px : Fin 64) (py : Fin 32) (m : Nat) :
    (s.togglePixel px py).ea m = s.ea m := rfl
@[simp] theorem State.ea_clearDisp (m : Nat) : s.clearDisp.ea m = s.ea m := rfl
@[simp] theorem State.ea_writeKey (k : Nibble) (down : Bool) (m : Nat) :
    (s.writeKey k down).ea m = s.ea m := rfl
@[simp] theorem State.ea_beginWait (x : Nibble) (m : Nat) : (s.beginWait x).ea m = s.ea m := rfl
@[simp] theorem State.ea_endWait (m : Nat) : s.endWait.ea m = s.ea m := rfl

@[simp] theorem State.fetch16_writeV (x : Nibble) (b : Byte) (adr : Addr) :
    (s.writeV x b).fetch16 adr = s.fetch16 adr := rfl
@[simp] theorem State.fetch16_writeVF (f : Byte) (adr : Addr) :
    (s.writeVF f).fetch16 adr = s.fetch16 adr := rfl
@[simp] theorem State.fetch16_writeI (w : Word) (adr : Addr) :
    (s.writeI w).fetch16 adr = s.fetch16 adr := rfl
@[simp] theorem State.fetch16_writeDT (b : Byte) (adr : Addr) :
    (s.writeDT b).fetch16 adr = s.fetch16 adr := rfl
@[simp] theorem State.fetch16_writeST (b : Byte) (adr : Addr) :
    (s.writeST b).fetch16 adr = s.fetch16 adr := rfl
@[simp] theorem State.fetch16_writePc (w : Word) (adr : Addr) :
    (s.writePc w).fetch16 adr = s.fetch16 adr := rfl
@[simp] theorem State.fetch16_advance (adr : Addr) : s.advance.fetch16 adr = s.fetch16 adr := rfl
@[simp] theorem State.fetch16_skipIf (c : Bool) (adr : Addr) : (s.skipIf c).fetch16 adr = s.fetch16 adr := by
  unfold State.skipIf; split <;> rfl
@[simp] theorem State.fetch16_nextDraw (adr : Addr) : s.nextDraw.fetch16 adr = s.fetch16 adr := rfl
@[simp] theorem State.fetch16_push (w : Word) (adr : Addr) : (s.push w).fetch16 adr = s.fetch16 adr := by
  unfold State.push; split <;> rfl
@[simp] theorem State.fetch16_popPc (adr : Addr) : s.popPc.fetch16 adr = s.fetch16 adr := rfl
@[simp] theorem State.fetch16_togglePixel (px : Fin 64) (py : Fin 32) (adr : Addr) :
    (s.togglePixel px py).fetch16 adr = s.fetch16 adr := rfl
@[simp] theorem State.fetch16_clearDisp (adr : Addr) :
    s.clearDisp.fetch16 adr = s.fetch16 adr := rfl
@[simp] theorem State.fetch16_writeKey (k : Nibble) (down : Bool) (adr : Addr) :
    (s.writeKey k down).fetch16 adr = s.fetch16 adr := rfl
@[simp] theorem State.fetch16_beginWait (x : Nibble) (adr : Addr) :
    (s.beginWait x).fetch16 adr = s.fetch16 adr := rfl
@[simp] theorem State.fetch16_endWait (adr : Addr) : s.endWait.fetch16 adr = s.fetch16 adr := rfl

end Sys2Proof.Machine
end

