-- ==== Sys2Proof/Laws/Memory.lean ====
section
/-! SUPPORT. The laws of memory: a read after a write, the canonical form kept by every write, and that a
memory in canonical form is determined by what it reads as. -/

namespace Sys2Proof.Machine

theorem Memory.read_erase (m : Memory) (a c : Nat) :
    (m.erase a).read c = if c = a then background a else m.read c := by
  induction m with
  | nil => by_cases h : c = a <;> simp [erase, read, h]
  | cons e m ih =>
    obtain ⟨d, v⟩ := e
    by_cases h1 : a = d <;> by_cases h2 : c = d <;> by_cases h3 : c = a <;>
      simp_all [erase, read]

theorem Memory.length_erase_le (m : Memory) (a : Nat) : (m.erase a).length ≤ m.length := by
  induction m with
  | nil => simp [erase]
  | cons e m ih => obtain ⟨d, v⟩ := e; simp only [erase]; split <;> simp <;> omega

/-- A memory that an erase leaves as it is does not list the address. -/
theorem Memory.erase_eq_cons {m : Memory} {a c : Nat} {v : Byte}
    (h : Memory.erase ((c, v) :: m) a = (c, v) :: m) : a ≠ c ∧ m.erase a = m := by
  have hne : a ≠ c := by
    rintro rfl
    simp only [erase, if_true] at h
    have h1 := congrArg List.length h
    have h2 := length_erase_le m a
    simp at h1
    omega
  exact ⟨hne, by simpa [erase, hne] using h⟩

theorem Memory.read_put (m : Memory) (a c : Nat) (b : Byte) (h : m.erase a = m) :
    (m.put a b).read c = if c = a then b else m.read c := by
  have hbg : ∀ k : Memory, k.erase a = k → k.read a = background a := by
    intro k hk
    have := read_erase k a a
    rwa [hk, if_pos rfl] at this
  induction m with
  | nil =>
    by_cases hb : b = background a <;> by_cases hc : c = a <;> simp [put, read, hb, hc]
  | cons e m ih =>
    obtain ⟨d, v⟩ := e
    obtain ⟨hne, hm⟩ := erase_eq_cons h
    simp only [put]
    split
    · split
      · next hb =>
        by_cases hc : c = a
        · rw [hc, if_pos rfl, hb, hbg _ h]
        · rw [if_neg hc]
      · simp [read]
    · simp only [read, ih hm]
      by_cases h1 : c = d
      · simp [h1, Ne.symm hne]
      · simp [h1]

theorem Memory.erase_erase (m : Memory) (a : Nat) : (m.erase a).erase a = m.erase a := by
  induction m with
  | nil => rfl
  | cons e m ih =>
    obtain ⟨d, v⟩ := e
    by_cases h : a = d <;> simp [erase, h, ih]
    subst h; exact ih

/-- A read after a write: the written byte at its address, the old byte elsewhere. -/
theorem Memory.read_write (m : Memory) (a c : Nat) (b : Byte) :
    (m.write a b).read c = if c = a then b else m.read c := by
  rw [write, read_put _ _ _ _ (erase_erase m a), read_erase]
  split <;> rfl

/-- The canonical form, entry by entry. -/
theorem Memory.wfFrom_cons (lo c : Nat) (v : Byte) (m : Memory) :
    wfFrom lo ((c, v) :: m) = true ↔
      lo ≤ c ∧ c < memBytes ∧ v ≠ background c ∧ wfFrom (c + 1) m = true := by
  simp [wfFrom, and_assoc]

theorem Memory.wfFrom_mono {lo lo' : Nat} {m : Memory} (h : wfFrom lo m = true) (hl : lo' ≤ lo) :
    wfFrom lo' m = true := by
  cases m with
  | nil => rfl
  | cons e m =>
    obtain ⟨c, v⟩ := e
    rw [wfFrom_cons] at h ⊢
    exact ⟨by omega, h.2⟩

theorem Memory.wfFrom_erase {lo : Nat} {m : Memory} (a : Nat) (h : wfFrom lo m = true) :
    wfFrom lo (m.erase a) = true := by
  induction m generalizing lo with
  | nil => rfl
  | cons e m ih =>
    obtain ⟨c, v⟩ := e
    rw [wfFrom_cons] at h
    simp only [erase]
    split
    · exact wfFrom_mono (ih h.2.2.2) (by omega)
    · rw [wfFrom_cons]; exact ⟨h.1, h.2.1, h.2.2.1, ih h.2.2.2⟩

theorem Memory.wfFrom_put {lo : Nat} {m : Memory} {a : Nat} {b : Byte} (h : wfFrom lo m = true)
    (hm : m.erase a = m) (hlo : lo ≤ a) (ha : a < memBytes) : wfFrom lo (m.put a b) = true := by
  induction m generalizing lo with
  | nil =>
    by_cases hb : b = background a
    · simp [put, hb, wfFrom]
    · simp only [put, if_neg hb, wfFrom_cons]
      exact ⟨hlo, ha, hb, rfl⟩
  | cons e m ih =>
    obtain ⟨c, v⟩ := e
    obtain ⟨hne, hm'⟩ := erase_eq_cons hm
    have hc := h
    rw [wfFrom_cons] at hc
    simp only [put]
    split
    · split
      · exact h
      · next hb => rw [wfFrom_cons, wfFrom_cons]; exact ⟨hlo, ha, hb, by omega, hc.2⟩
    · rw [wfFrom_cons]
      exact ⟨hc.1, hc.2.1, hc.2.2.1, ih hc.2.2.2 hm' (by omega)⟩

/-- Every write keeps the canonical form. -/
theorem Memory.wf_write {m : Memory} {a : Nat} {b : Byte} (h : m.wf = true) (ha : a < memBytes) :
    (m.write a b).wf = true :=
  wfFrom_put (wfFrom_erase a h) (erase_erase m a) (Nat.zero_le a) ha

theorem Memory.wf_nil : Memory.wf [] = true := rfl

/-- `MemWrite` keeps the canonical form. -/
theorem State.memWrite_wf {s : State} (a : Addr) (b : Byte) (h : s.Mem.wf = true) :
    (s.memWrite a b).Mem.wf = true :=
  Memory.wf_write h a.isLt

/-- A byte read after a store: the stored byte at its address, the old byte elsewhere. -/
theorem State.memRead_memWrite (s : State) (a c : Addr) (b : Byte) :
    (s.memWrite a b).memRead c = if c = a then b else s.memRead c := by
  simp [State.memRead, State.memWrite, Memory.read_write, BitVec.toNat_inj]

@[simp] theorem State.memRead_memWrite_same (s : State) (a : Addr) (b : Byte) :
    (s.memWrite a b).memRead a = b := by simp [memRead_memWrite]

theorem State.memRead_memWrite_ne (s : State) {a c : Addr} (b : Byte) (h : c ≠ a) :
    (s.memWrite a b).memRead c = s.memRead c := by simp [memRead_memWrite, h]

end Sys2Proof.Machine
end

