-- ==== Sys2Proof/Laws/Registers.lean ====
section
/-! SUPPORT. What a register, a pixel, a key level and a stack entry read as after a write of one. -/

namespace Sys2Proof.Machine

/-- A register read after a register write. -/
theorem State.readV_writeV (s : State) (x y : Nibble) (b : Byte) :
    (s.writeV x b).readV y = if y = x then b else s.readV y := by
  simp [readV, writeV, Vector.getElem_set, BitVec.toNat_inj, eq_comm]

@[simp] theorem State.readV_writeV_same (s : State) (x : Nibble) (b : Byte) :
    (s.writeV x b).readV x = b := by simp [readV_writeV]

theorem State.readV_writeV_ne (s : State) {x y : Nibble} (b : Byte) (h : y ≠ x) :
    (s.writeV x b).readV y = s.readV y := by simp [readV_writeV, h]

/-- A register read after a flag write. -/
theorem State.readV_writeVF (s : State) (y : Nibble) (f : Byte) :
    (s.writeVF f).readV y = if y = 0xF then f else s.readV y := s.readV_writeV 0xF y f

/-- A pixel after a toggle. -/
theorem State.pixel_togglePixel (s : State) (px qx : Fin 64) (py qy : Fin 32) :
    (s.togglePixel px py).pixel qx qy =
      (s.pixel qx qy ^^ decide (qx = px ∧ qy = py)) := by
  simp only [pixel, togglePixel, Vector.getElem_set, Fin.val_inj]
  by_cases h : py = qy
  · subst h
    simp [Fin.ext_iff, eq_comm]
  · simp [h, Ne.symm h]

@[simp] theorem State.pixel_clearDisp (s : State) (px : Fin 64) (py : Fin 32) :
    s.clearDisp.pixel px py = false := by simp [pixel, clearDisp]

/-- A key level after a `set_key` write. -/
theorem State.keyDown_writeKey (s : State) (k j : Nibble) (down : Bool) :
    (s.writeKey k down).keyDown j = if j = k then down else s.keyDown j := by
  simp [keyDown, writeKey, Vector.getElem_set, BitVec.toNat_inj, eq_comm]

/-- What a push below the limit does: the entry at the old `sp`, `sp` one higher, the other entries kept. -/
theorem State.push_of_lt (s : State) (w : Word) (h : s.sp.val < 16) :
    (s.push w).sp.val = s.sp.val + 1 ∧ (s.push w).Stack = s.Stack.set s.sp.val w h := by
  simp [push, h]

@[simp] theorem State.popPc_sp_val (s : State) : s.popPc.sp.val = s.sp.val - 1 := rfl

/-- The top after a push is the pushed word. -/
theorem State.top_push (s : State) (w : Word) (h : s.sp.val < 16) : (s.push w).top = w := by
  simp [top, push, h]

end Sys2Proof.Machine
end

