-- ==== Sys2Proof/Laws/Operands.lean ====
section
/-! SUPPORT. The small lemmas of the operand forms, the flags, the fetch range and the cycle of a step. -/

namespace Sys2Proof.Machine

/-- The effective data address at the configuration's policy. -/
theorem State.ea_eq (s : State) (k : Nat) : s.ea k = BitVec.ofNat 12 (s.I.toNat + k) := rfl

theorem State.ea_toNat (s : State) (k : Nat) : (s.ea k).toNat = (s.I.toNat + k) % 4096 := by
  simp [State.ea_eq]

/-- Offsets less than 4096 apart give different data addresses. -/
theorem State.ea_inj (s : State) {j k : Nat} (hj : j < 4096) (hk : k < 4096)
    (h : s.ea j = s.ea k) : j = k := by
  have := congrArg BitVec.toNat h
  rw [ea_toNat, ea_toNat] at this
  omega

theorem blockReg_toNat {k : Nat} (h : k < 16) : (blockReg k).toNat = k := by
  simp [blockReg]; omega

theorem blockReg_of_toNat (x : Nibble) : blockReg x.toNat = x := by
  simp [blockReg]

/-- The fetch range at the configuration's `PC_MIN`. -/
theorem State.fetchable_iff (s : State) :
    s.fetchable = true ↔ 0x200 ≤ s.pc.toNat ∧ s.pc.toNat ≤ 0xFFE := by
  simp [fetchable, inFetchRange, config]

theorem State.fetchAddr_toNat {s : State} (h : s.fetchable = true) :
    s.fetchAddr.toNat = s.pc.toNat := by
  rw [fetchable_iff] at h
  simp [fetchAddr]
  omega

theorem flagByte_eq_one (c : Bool) : flagByte c = 1 ↔ c = true := by cases c <;> decide

theorem flagByte_eq_zero (c : Bool) : flagByte c = 0 ↔ c = false := by cases c <;> decide

/-- A flag is 0x00 or 0x01. -/
theorem flagByte_cases (c : Bool) : flagByte c = 0 ∨ flagByte c = 1 := by cases c <;> decide

/-- What a next state of the cycle comes from: a key wait, a decoded word, and nothing else. -/
theorem cycle_eq_next {run : Instr → State → Result} {s t : State} (h : cycle run s = .next t) :
    (s.waiting = true ∧ t = s) ∨
    (s.waiting = false ∧ s.fetchable = true ∧ runDecoded run (decodeWord s.fetch) s = .next t) := by
  unfold cycle at h
  split at h
  · next hw => cases h; exact .inl ⟨hw, rfl⟩
  · next hw =>
    split at h
    · next hf => exact .inr ⟨by simpa using hw, hf, h⟩
    · cases h

/-- What a fault of the cycle comes from: a `pc` out of range, or a decoded word. -/
theorem cycle_eq_fault {run : Instr → State → Result} {s : State} {f : Fault}
    (h : cycle run s = .fault f) :
    s.waiting = false ∧
      ((s.fetchable = false ∧ f = .pcOutOfRange) ∨
       (s.fetchable = true ∧ runDecoded run (decodeWord s.fetch) s = .fault f)) := by
  unfold cycle at h
  split at h
  · cases h
  · next hw =>
    refine ⟨by simpa using hw, ?_⟩
    split at h
    · next hf => exact .inr ⟨hf, h⟩
    · next hf => cases h; exact .inl ⟨by simpa using hf, rfl⟩

/-- A timer counts down by one and stays at 0. -/
theorem countDown_toNat (t : Byte) : (countDown t).toNat = t.toNat - 1 := by
  unfold countDown
  split
  · next h => simp [h]
  · next h =>
    have : t.toNat ≠ 0 := fun h0 => h (BitVec.eq_of_toNat_eq (by simpa using h0))
    have := t.isLt
    rw [BitVec.toNat_sub]
    simp
    omega

/-! The step transaction and runs -/

/-- The reply of a step that runs an instruction or waits, where no event is reported. -/
theorem stepTxn_ok {s t : State} (h : step s = .next t) (he : s.event = none) :
    stepTxn s = (.ok, t) := by simp only [stepTxn, h, he]

/-- The reply of a step that reports an unknown opcode. -/
theorem stepTxn_unknown {s t : State} {w : Word} (h : step s = .next t) (he : s.event = some w) :
    stepTxn s = (.unknownOpcode w, t) := by simp only [stepTxn, h, he]

/-- The reply of a step that faults; the state is kept. -/
theorem stepTxn_fault {s : State} {f : Fault} (h : step s = .fault f) : stepTxn s = (.err f, s) := by
  simp only [stepTxn, h]

/-- A decoded instruction reports no event. -/
theorem State.event_of_instr {s : State} {i : Instr} (h : decodeWord s.fetch = .instr i) :
    s.event = none := by
  simp [State.event, h]

/-- A run in two parts: the replies follow one another, the second part starts where the first ends. -/
theorem runTransactions_append (ts us : List Transaction) (s : State) :
    runTransactions (ts ++ us) s =
      ((runTransactions ts s).1 ++ (runTransactions us (runTransactions ts s).2).1,
        (runTransactions us (runTransactions ts s).2).2) := by
  induction ts generalizing s with
  | nil => rfl
  | cons t ts ih => simp [runTransactions, ih]

end Sys2Proof.Machine
end

