-- ==== Sys2Proof/Laws/Blocks.lean ====
section
/-! SUPPORT. What the block store and the block load do, said once: the stored or loaded bytes, and what they
leave alone. -/

namespace Sys2Proof.Machine

variable (s : State)

theorem State.storeBlock_succ (n : Nat) :
    s.storeBlock (n + 1) =
      (s.storeBlock n).memWrite ((s.storeBlock n).ea n) ((s.storeBlock n).readV (blockReg n)) := by
  simp [storeBlock, List.range_succ]

/-- A block store changes memory only. -/
theorem State.storeBlock_frame (n : Nat) : s.storeBlock n = { s with Mem := (s.storeBlock n).Mem } := by
  induction n with
  | zero => rfl
  | succ n ih => rw [storeBlock_succ, ih]; rfl

theorem State.storeBlock_ea (n k : Nat) : (s.storeBlock n).ea k = s.ea k := by
  rw [storeBlock_frame]; rfl

theorem State.storeBlock_readV (n : Nat) (x : Nibble) : (s.storeBlock n).readV x = s.readV x := by
  rw [storeBlock_frame]; rfl

/-- A byte outside the stored ones reads as before. -/
theorem State.storeBlock_memRead_other (n : Nat) (c : Addr) (h : ∀ k, k < n → c ≠ s.ea k) :
    (s.storeBlock n).memRead c = s.memRead c := by
  induction n with
  | zero => rfl
  | succ n ih =>
    rw [storeBlock_succ, memRead_memWrite_ne _ _ (by rw [storeBlock_ea]; exact h n (by omega))]
    exact ih fun k hk => h k (by omega)

/-- Byte `k` of the block is `V[k]`. -/
theorem State.storeBlock_memRead (n k : Nat) (hn : n ≤ 16) (hk : k < n) :
    (s.storeBlock n).memRead (s.ea k) = s.readV (blockReg k) := by
  induction n with
  | zero => omega
  | succ n ih =>
    rw [storeBlock_succ, memRead_memWrite, storeBlock_ea, storeBlock_readV]
    by_cases h : k = n
    · subst h; simp
    · have hne : s.ea k ≠ s.ea n := fun he => h (s.ea_inj (by omega) (by omega) he)
      rw [if_neg hne]
      exact ih (by omega) (by omega)

theorem State.storeBlock_wf (n : Nat) (h : s.Mem.wf = true) : (s.storeBlock n).Mem.wf = true := by
  induction n with
  | zero => exact h
  | succ n ih => rw [storeBlock_succ]; exact memWrite_wf _ _ ih

theorem State.loadBlock_succ (n : Nat) :
    s.loadBlock (n + 1) =
      (s.loadBlock n).writeV (blockReg n) ((s.loadBlock n).memRead ((s.loadBlock n).ea n)) := by
  simp [loadBlock, List.range_succ]

/-- A block load changes registers only. -/
theorem State.loadBlock_frame (n : Nat) : s.loadBlock n = { s with V := (s.loadBlock n).V } := by
  induction n with
  | zero => rfl
  | succ n ih => rw [loadBlock_succ, ih]; rfl

theorem State.loadBlock_ea (n k : Nat) : (s.loadBlock n).ea k = s.ea k := by
  rw [loadBlock_frame]; rfl

theorem State.loadBlock_memRead (n : Nat) (c : Addr) : (s.loadBlock n).memRead c = s.memRead c := by
  rw [loadBlock_frame]; rfl

/-- A block load of `n` registers: the first `n` from memory, the others kept. -/
theorem State.loadBlock_readV (n : Nat) (hn : n ≤ 16) (y : Nibble) :
    (s.loadBlock n).readV y = if y.toNat < n then s.memRead (s.ea y.toNat) else s.readV y := by
  induction n with
  | zero => rfl
  | succ n ih =>
    rw [loadBlock_succ, readV_writeV, loadBlock_memRead, loadBlock_ea, ih (by omega)]
    by_cases h : y = blockReg n
    · have hy : y.toNat = n := by rw [h, blockReg_toNat (by omega)]
      rw [if_pos h, if_pos (by omega), hy]
    · have hy : y.toNat ≠ n := fun hy => h (by rw [← hy, blockReg_of_toNat])
      rw [if_neg h]
      by_cases h2 : y.toNat < n
      · rw [if_pos h2, if_pos (by omega)]
      · rw [if_neg h2, if_neg (by omega)]

end Sys2Proof.Machine
end

