-- ==== Sys2Proof/Laws/Display.lean ====
section
/-! SUPPORT. What drawing does, said once: row by row, each pixel is xored with the sprite's bit for it, the
collision bit says whether a lit pixel was under a sprite bit, and nothing but the display changes. -/

namespace Sys2Proof.Machine

/-- The sprite bit that the first `m` columns of row `r` put on a pixel. -/
def rowBit (x0 y0 b : Byte) (r m : Nat) (px : Fin 64) (py : Fin 32) : Bool :=
  (List.range m).any fun c => b.getLsbD (7 - c) && decide (px = columnOf x0 c ∧ py = rowOf y0 r)

theorem rowBit_succ (x0 y0 b : Byte) (r m : Nat) (px : Fin 64) (py : Fin 32) :
    rowBit x0 y0 b r (m + 1) px py =
      (rowBit x0 y0 b r m px py ||
        (b.getLsbD (7 - m) && decide (px = columnOf x0 m ∧ py = rowOf y0 r))) := by
  simp [rowBit, List.range_succ]

theorem columnOf_inj {x0 : Byte} {c d : Nat} (hc : c < 64) (hd : d < 64)
    (h : columnOf x0 c = columnOf x0 d) : c = d := by
  simp [columnOf, Fin.ext_iff] at h
  omega

theorem rowOf_inj {y0 : Byte} {r q : Nat} (hr : r < 32) (hq : q < 32)
    (h : rowOf y0 r = rowOf y0 q) : r = q := by
  simp [rowOf, Fin.ext_iff] at h
  omega

/-- No earlier column of a row puts a bit on a later column's pixel. -/
theorem rowBit_columnOf {x0 y0 b : Byte} {r m : Nat} (hm : m < 64) (py : Fin 32) :
    rowBit x0 y0 b r m (columnOf x0 m) py = false := by
  simp only [rowBit, List.any_eq_false, List.mem_range, Bool.and_eq_true, decide_eq_true_eq]
  rintro c hc ⟨-, h, -⟩
  have := columnOf_inj (x0 := x0) hm (by omega) h
  omega

/-- The columns of one row, as far as they are drawn. -/
def drawColumns (x0 y0 b : Byte) (r m : Nat) (d : State × Bool) : State × Bool :=
  (List.range m).foldl (drawPixel x0 y0 b r) d

theorem drawColumns_succ (x0 y0 b : Byte) (r m : Nat) (d : State × Bool) :
    drawColumns x0 y0 b r (m + 1) d = drawPixel x0 y0 b r (drawColumns x0 y0 b r m d) m := by
  simp [drawColumns, List.range_succ]

theorem drawRow_eq (x0 y0 : Byte) (d : State × Bool) (r : Nat) :
    drawRow x0 y0 d r = drawColumns x0 y0 (d.1.memRead (d.1.ea r)) r 8 d := rfl

/-- Drawing columns changes the display only. -/
theorem drawColumns_frame (x0 y0 b : Byte) (r m : Nat) (d : State × Bool) :
    (drawColumns x0 y0 b r m d).1 = { d.1 with Disp := (drawColumns x0 y0 b r m d).1.Disp } := by
  induction m with
  | zero => rfl
  | succ m ih =>
    rw [drawColumns_succ, drawPixel]
    split
    · rw [ih]; rfl
    · exact ih

/-- Each pixel is xored with the bit the row puts on it. -/
theorem drawColumns_pixel (x0 y0 b : Byte) (r m : Nat) (hm : m ≤ 64) (d : State × Bool)
    (px : Fin 64) (py : Fin 32) :
    (drawColumns x0 y0 b r m d).1.pixel px py = (d.1.pixel px py ^^ rowBit x0 y0 b r m px py) := by
  induction m generalizing px py with
  | zero => simp [drawColumns, rowBit]
  | succ m ih =>
    rw [drawColumns_succ, drawPixel, rowBit_succ]
    split
    · next hb =>
      rw [State.pixel_togglePixel, ih (by omega), hb, Bool.true_and]
      by_cases h : px = columnOf x0 m ∧ py = rowOf y0 r
      · rw [h.1, rowBit_columnOf (by omega)]; simp [h.2]
      · simp [h]
    · next hb => rw [ih (by omega)]; simp [hb]

/-- The collision bit after some columns: whether one of their bits met a lit pixel. -/
theorem drawColumns_collision (x0 y0 b : Byte) (r m : Nat) (hm : m ≤ 64) (d : State × Bool) :
    (drawColumns x0 y0 b r m d).2 = true ↔
      d.2 = true ∨ ∃ px py, d.1.pixel px py = true ∧ rowBit x0 y0 b r m px py = true := by
  induction m with
  | zero => simp [drawColumns, rowBit]
  | succ m ih =>
    rw [drawColumns_succ, drawPixel]
    split
    · next hb =>
      simp only [Bool.or_eq_true, ih (by omega), drawColumns_pixel x0 y0 b r m (by omega),
        rowBit_columnOf (by omega : m < 64), Bool.xor_false, rowBit_succ, hb, Bool.true_and,
        decide_eq_true_eq, or_assoc]
      refine or_congr_right ⟨?_, ?_⟩
      · rintro (⟨px, py, h1, h2⟩ | h)
        · exact ⟨px, py, h1, .inl h2⟩
        · exact ⟨_, _, h, .inr ⟨rfl, rfl⟩⟩
      · rintro ⟨px, py, h1, h2 | ⟨rfl, rfl⟩⟩
        · exact .inl ⟨px, py, h1, h2⟩
        · exact .inr h1
    · next hb => rw [ih (by omega)]; simp [rowBit_succ, hb]

/-- The sprite bit that the first `n` rows of a sprite put on a pixel. -/
def spriteBit (x0 y0 : Byte) (s : State) (n : Nat) (px : Fin 64) (py : Fin 32) : Bool :=
  (List.range n).any fun r => rowBit x0 y0 (s.memRead (s.ea r)) r 8 px py

theorem spriteBit_succ (x0 y0 : Byte) (s : State) (n : Nat) (px : Fin 64) (py : Fin 32) :
    spriteBit x0 y0 s (n + 1) px py =
      (spriteBit x0 y0 s n px py || rowBit x0 y0 (s.memRead (s.ea n)) n 8 px py) := by
  simp [spriteBit, List.range_succ]

/-- Whether a pixel is under a sprite bit, as the rule says it. -/
theorem spriteBit_iff (x0 y0 : Byte) (s : State) (n : Nat) (px : Fin 64) (py : Fin 32) :
    spriteBit x0 y0 s n px py = true ↔
      ∃ r c, r < n ∧ c < 8 ∧ (s.memRead (s.ea r)).getLsbD (7 - c) = true ∧
        px = columnOf x0 c ∧ py = rowOf y0 r := by
  simp only [spriteBit, rowBit, List.any_eq_true, List.mem_range, Bool.and_eq_true,
    decide_eq_true_eq]
  constructor
  · rintro ⟨r, hr, c, hc, hb, h⟩; exact ⟨r, c, hr, hc, hb, h⟩
  · rintro ⟨r, c, hr, hc, hb, h⟩; exact ⟨r, hr, c, hc, hb, h⟩

/-- No earlier row puts a bit where a later row does. -/
theorem spriteBit_disjoint {x0 y0 b : Byte} {s : State} {n m : Nat} (hn : n < 32) {px : Fin 64}
    {py : Fin 32} (h : rowBit x0 y0 b n m px py = true) : spriteBit x0 y0 s n px py = false := by
  simp only [rowBit, List.any_eq_true, List.mem_range, Bool.and_eq_true, decide_eq_true_eq] at h
  obtain ⟨c, -, -, -, hpy⟩ := h
  rw [← Bool.not_eq_true, spriteBit_iff]
  rintro ⟨r, _, hr, -, -, -, hpy'⟩
  have := rowOf_inj (y0 := y0) hn (by omega) (hpy ▸ hpy')
  omega

theorem drawRows_succ (x0 y0 : Byte) (n : Nat) (s : State) :
    drawRows x0 y0 (n + 1) s = drawRow x0 y0 (drawRows x0 y0 n s) n := by
  simp [drawRows, List.range_succ]

/-- Drawing changes the display only. -/
theorem drawRows_frame (x0 y0 : Byte) (n : Nat) (s : State) :
    (drawRows x0 y0 n s).1 = { s with Disp := (drawRows x0 y0 n s).1.Disp } := by
  induction n with
  | zero => rfl
  | succ n ih =>
    rw [drawRows_succ, drawRow_eq, drawColumns_frame, ih]

theorem drawRows_memRead_ea (x0 y0 : Byte) (n k : Nat) (s : State) :
    (drawRows x0 y0 n s).1.memRead ((drawRows x0 y0 n s).1.ea k) = s.memRead (s.ea k) := by
  rw [drawRows_frame]; rfl

/-- Each pixel is xored with the sprite's bit for it. -/
theorem drawRows_pixel (x0 y0 : Byte) (n : Nat) (hn : n ≤ 32) (s : State) (px : Fin 64)
    (py : Fin 32) :
    (drawRows x0 y0 n s).1.pixel px py = (s.pixel px py ^^ spriteBit x0 y0 s n px py) := by
  induction n with
  | zero => simp [drawRows, spriteBit]
  | succ n ih =>
    rw [drawRows_succ, drawRow_eq, drawRows_memRead_ea, drawColumns_pixel _ _ _ _ _ (by omega),
      ih (by omega), spriteBit_succ]
    cases h : rowBit x0 y0 (s.memRead (s.ea n)) n 8 px py
    · simp
    · rw [spriteBit_disjoint (by omega) h]; simp

/-- The collision bit: whether a sprite bit met a pixel that was lit before the instruction. -/
theorem drawRows_collision (x0 y0 : Byte) (n : Nat) (hn : n ≤ 32) (s : State) :
    (drawRows x0 y0 n s).2 = true ↔
      ∃ px py, s.pixel px py = true ∧ spriteBit x0 y0 s n px py = true := by
  induction n with
  | zero => simp [drawRows, spriteBit]
  | succ n ih =>
    rw [drawRows_succ, drawRow_eq, drawRows_memRead_ea, drawColumns_collision _ _ _ _ _ (by omega),
      ih (by omega)]
    simp only [spriteBit_succ, Bool.or_eq_true, and_or_left, exists_or]
    refine or_congr_right ⟨?_, ?_⟩
    · rintro ⟨px, py, h1, h2⟩
      rw [drawRows_pixel _ _ _ (by omega), spriteBit_disjoint (by omega) h2] at h1
      exact ⟨px, py, by simpa using h1, h2⟩
    · rintro ⟨px, py, h1, h2⟩
      refine ⟨px, py, ?_, h2⟩
      rw [drawRows_pixel _ _ _ (by omega), spriteBit_disjoint (by omega) h2]
      simpa using h1

end Sys2Proof.Machine
end

