-- ==== Sys2Proof/Laws/Encoding.lean ====
section
/-! SUPPORT. The fields of a word built from its parts (spec/30_encoding.md R92, R106): one lemma per field
and part, so that decoding an encoded instruction is rewriting. -/

namespace Sys2Proof

/-! The fields as numbers -/

theorem fieldOp_toNat (w : Word) : (fieldOp w).toNat = w.toNat / 4096 := by
  have := w.isLt
  simp [fieldOp, BitVec.extractLsb'_toNat, Nat.shiftRight_eq_div_pow]
  omega
theorem fieldX_toNat (w : Word) : (fieldX w).toNat = w.toNat / 256 % 16 := by
  simp [fieldX, BitVec.extractLsb'_toNat, Nat.shiftRight_eq_div_pow]
theorem fieldY_toNat (w : Word) : (fieldY w).toNat = w.toNat / 16 % 16 := by
  simp [fieldY, BitVec.extractLsb'_toNat, Nat.shiftRight_eq_div_pow]
theorem fieldN_toNat (w : Word) : (fieldN w).toNat = w.toNat % 16 := by
  simp [fieldN, BitVec.extractLsb'_toNat, Nat.shiftRight_eq_div_pow]
theorem fieldKK_toNat (w : Word) : (fieldKK w).toNat = w.toNat % 256 := by
  simp [fieldKK, BitVec.extractLsb'_toNat, Nat.shiftRight_eq_div_pow]
theorem fieldNNN_toNat (w : Word) : (fieldNNN w).toNat = w.toNat % 4096 := by
  simp [fieldNNN, BitVec.extractLsb'_toNat, Nat.shiftRight_eq_div_pow]

/-! The parts as numbers -/

theorem placeX_toNat (x : Nibble) : (placeX x).toNat = x.toNat * 256 := by revert x; decide
theorem placeY_toNat (y : Nibble) : (placeY y).toNat = y.toNat * 16 := by revert y; decide

/-- Parts that share no bit add up. -/
theorem toNat_or_of_disjoint (v w : Word) (h : v &&& w = 0) :
    (v ||| w).toNat = v.toNat + w.toNat := by
  rw [← BitVec.add_eq_or_of_and_eq_zero _ _ h, BitVec.toNat_add_of_and_eq_zero h]

/-! A field of a bitwise or -/

theorem fieldOp_or (v w : Word) : fieldOp (v ||| w) = fieldOp v ||| fieldOp w := by
  simp [fieldOp, BitVec.extractLsb'_or]

theorem fieldX_or (v w : Word) : fieldX (v ||| w) = fieldX v ||| fieldX w := by
  simp [fieldX, BitVec.extractLsb'_or]

theorem fieldY_or (v w : Word) : fieldY (v ||| w) = fieldY v ||| fieldY w := by
  simp [fieldY, BitVec.extractLsb'_or]

theorem fieldN_or (v w : Word) : fieldN (v ||| w) = fieldN v ||| fieldN w := by
  simp [fieldN, BitVec.extractLsb'_or]

theorem fieldKK_or (v w : Word) : fieldKK (v ||| w) = fieldKK v ||| fieldKK w := by
  simp [fieldKK, BitVec.extractLsb'_or]

theorem fieldNNN_or (v w : Word) : fieldNNN (v ||| w) = fieldNNN v ||| fieldNNN w := by
  simp [fieldNNN, BitVec.extractLsb'_or]

/-! The fields of `x << 8` -/

theorem fieldOp_placeX (x : Nibble) : fieldOp (placeX x) = 0 := by revert x; decide
theorem fieldX_placeX (x : Nibble) : fieldX (placeX x) = x := by revert x; decide
theorem fieldY_placeX (x : Nibble) : fieldY (placeX x) = 0 := by revert x; decide
theorem fieldN_placeX (x : Nibble) : fieldN (placeX x) = 0 := by revert x; decide
theorem fieldKK_placeX (x : Nibble) : fieldKK (placeX x) = 0 := by revert x; decide

/-! The fields of `y << 4` -/

theorem fieldOp_placeY (y : Nibble) : fieldOp (placeY y) = 0 := by revert y; decide
theorem fieldX_placeY (y : Nibble) : fieldX (placeY y) = 0 := by revert y; decide
theorem fieldY_placeY (y : Nibble) : fieldY (placeY y) = y := by revert y; decide
theorem fieldN_placeY (y : Nibble) : fieldN (placeY y) = 0 := by revert y; decide

/-! The fields of `n` -/

theorem fieldOp_n (n : Nibble) : fieldOp (n.setWidth 16) = 0 := by revert n; decide
theorem fieldX_n (n : Nibble) : fieldX (n.setWidth 16) = 0 := by revert n; decide
theorem fieldY_n (n : Nibble) : fieldY (n.setWidth 16) = 0 := by revert n; decide
theorem fieldN_n (n : Nibble) : fieldN (n.setWidth 16) = n := by revert n; decide

/-! The fields of `kk` -/

theorem fieldOp_kk (kk : Byte) : fieldOp (kk.setWidth 16) = 0 := by
  apply BitVec.eq_of_toNat_eq; simp [fieldOp, BitVec.extractLsb'_toNat]; omega
theorem fieldX_kk (kk : Byte) : fieldX (kk.setWidth 16) = 0 := by
  apply BitVec.eq_of_toNat_eq; simp [fieldX, BitVec.extractLsb'_toNat]; omega
theorem fieldKK_kk (kk : Byte) : fieldKK (kk.setWidth 16) = kk := by
  apply BitVec.eq_of_toNat_eq; simp [fieldKK, BitVec.extractLsb'_toNat]; omega

/-! The fields of `nnn` -/

theorem fieldOp_nnn (nnn : Addr) : fieldOp (nnn.setWidth 16) = 0 := by
  apply BitVec.eq_of_toNat_eq; simp [fieldOp, BitVec.extractLsb'_toNat]; omega
theorem fieldNNN_nnn (nnn : Addr) : fieldNNN (nnn.setWidth 16) = nnn := by
  apply BitVec.eq_of_toNat_eq; simp [fieldNNN, BitVec.extractLsb'_toNat]; omega

/-! A word from its two bytes -/

/-- Two bytes joined, as a number: the first is the high byte. -/
theorem toNat_joinBytes (hi lo : Byte) :
    BitVec.toNat (w := 16) (hi ++ lo : BitVec (8 + 8)) = hi.toNat * 256 + lo.toNat := by
  have := lo.isLt
  rw [show (256 : Nat) = 2 ^ 8 by rfl, ← Nat.shiftLeft_eq,
    Nat.shiftLeft_add_eq_or_of_lt (by simpa using this)]
  exact BitVec.toNat_append hi lo

/-- The bytes of a word join to the word. -/
theorem join_wordBytes (w : Word) : w.extractLsb' 8 8 ++ w.extractLsb' 0 8 = w := by
  apply BitVec.eq_of_toNat_eq
  rw [toNat_joinBytes]
  have := w.isLt
  simp [BitVec.extractLsb'_toNat, Nat.shiftRight_eq_div_pow]
  omega

/-- The high byte of two joined bytes. -/
theorem high_joinBytes (hi lo : Byte) : BitVec.extractLsb' (n := 16) 8 8 (hi ++ lo) = hi := by
  apply BitVec.eq_of_toNat_eq
  rw [BitVec.extractLsb'_toNat, toNat_joinBytes, Nat.shiftRight_eq_div_pow]
  have := lo.isLt
  have := hi.isLt
  omega

/-- The low byte of two joined bytes. -/
theorem low_joinBytes (hi lo : Byte) : BitVec.extractLsb' (n := 16) 0 8 (hi ++ lo) = lo := by
  apply BitVec.eq_of_toNat_eq
  rw [BitVec.extractLsb'_toNat, toNat_joinBytes, Nat.shiftRight_eq_div_pow]
  have := lo.isLt
  omega

/-! Masking the parts -/

theorem Row.code_and_mask (r : Row) : r.code &&& r.format.mask = r.code := by cases r <;> decide


theorem placeX_and_F000 (x : Nibble) : placeX x &&& 0xF000 = 0 := by revert x; decide
theorem placeX_and_F00F (x : Nibble) : placeX x &&& 0xF00F = 0 := by revert x; decide
theorem placeX_and_F0FF (x : Nibble) : placeX x &&& 0xF0FF = 0 := by revert x; decide
theorem placeY_and_F000 (y : Nibble) : placeY y &&& 0xF000 = 0 := by revert y; decide
theorem placeY_and_F00F (y : Nibble) : placeY y &&& 0xF00F = 0 := by revert y; decide
theorem n_and_F000 (n : Nibble) : n.setWidth 16 &&& (0xF000 : Word) = 0 := by revert n; decide
theorem kk_and_F000 (kk : Byte) : kk.setWidth 16 &&& (0xF000 : Word) = 0 := by revert kk; decide
theorem nnn_and_F000 (nnn : Addr) : nnn.setWidth 16 &&& (0xF000 : Word) = 0 := by
  ext i hi
  by_cases h : i < 12
  · have : (0xF000#16)[i] = false := by revert i; decide
    simp [this]
  · simp [BitVec.getLsbD_of_ge nnn i (by omega)]

end Sys2Proof
end

