-- ==== Sys2Proof/Laws/PerInstr.lean ====
section
/-! SUPPORT. Per instruction: the encoded word carries the fixed bits of its row of the opcode map
(spec/30_encoding.md R96: `(w & mask) = match`, R106). -/

namespace Sys2Proof.Laws.CarriesMatch

/-- The encoded word, masked with the mask of the instruction's format, is the code of its row. -/
def Statement (i : Instr) : Prop := encode i &&& i.row.format.mask = i.row.code

theorem or_and_mask (a b m : Word) : (a ||| b) &&& m = (a &&& m) ||| (b &&& m) := by
  ext i; simp [Bool.and_or_distrib_right]

theorem nnnForm (c : Word) (nnn : Addr) (h : c &&& 0xF000 = c) :
    (c ||| nnn.setWidth 16) &&& 0xF000 = c := by
  rw [or_and_mask, nnn_and_F000, h]; simp

theorem xkkForm (c : Word) (x : Nibble) (kk : Byte) (h : c &&& 0xF000 = c) :
    (c ||| placeX x ||| kk.setWidth 16) &&& 0xF000 = c := by
  rw [or_and_mask, or_and_mask, kk_and_F000, placeX_and_F000, h]; simp

theorem xyForm (c : Word) (x y : Nibble) (h : c &&& 0xF00F = c) :
    (c ||| placeX x ||| placeY y) &&& 0xF00F = c := by
  rw [or_and_mask, or_and_mask, placeX_and_F00F, placeY_and_F00F, h]; simp

theorem xynForm (c : Word) (x y n : Nibble) (h : c &&& 0xF000 = c) :
    (c ||| placeX x ||| placeY y ||| n.setWidth 16) &&& 0xF000 = c := by
  rw [or_and_mask, or_and_mask, or_and_mask,
    placeX_and_F000, placeY_and_F000, n_and_F000, h]; simp

theorem xForm (c : Word) (x : Nibble) (h : c &&& 0xF0FF = c) :
    (c ||| placeX x) &&& 0xF0FF = c := by
  rw [or_and_mask, placeX_and_F0FF, h]; simp

theorem cls : Statement .cls := by unfold Statement; decide
theorem ret : Statement .ret := by unfold Statement; decide
theorem jp (nnn : Addr) : Statement (.jp nnn) := nnnForm _ nnn (Row.code_and_mask .jp)
theorem call (nnn : Addr) : Statement (.call nnn) := nnnForm _ nnn (Row.code_and_mask .call)
theorem seImm (x : Nibble) (kk : Byte) : Statement (.seImm x kk) := xkkForm _ x kk (Row.code_and_mask .seImm)
theorem sneImm (x : Nibble) (kk : Byte) : Statement (.sneImm x kk) := xkkForm _ x kk (Row.code_and_mask .sneImm)
theorem seReg (x : Nibble) (y : Nibble) : Statement (.seReg x y) := xyForm _ x y (Row.code_and_mask .seReg)
theorem ldImm (x : Nibble) (kk : Byte) : Statement (.ldImm x kk) := xkkForm _ x kk (Row.code_and_mask .ldImm)
theorem addImm (x : Nibble) (kk : Byte) : Statement (.addImm x kk) := xkkForm _ x kk (Row.code_and_mask .addImm)
theorem ldReg (x : Nibble) (y : Nibble) : Statement (.ldReg x y) := xyForm _ x y (Row.code_and_mask .ldReg)
theorem orReg (x : Nibble) (y : Nibble) : Statement (.orReg x y) := xyForm _ x y (Row.code_and_mask .orReg)
theorem andReg (x : Nibble) (y : Nibble) : Statement (.andReg x y) := xyForm _ x y (Row.code_and_mask .andReg)
theorem xorReg (x : Nibble) (y : Nibble) : Statement (.xorReg x y) := xyForm _ x y (Row.code_and_mask .xorReg)
theorem addReg (x : Nibble) (y : Nibble) : Statement (.addReg x y) := xyForm _ x y (Row.code_and_mask .addReg)
theorem subReg (x : Nibble) (y : Nibble) : Statement (.subReg x y) := xyForm _ x y (Row.code_and_mask .subReg)
theorem shr (x : Nibble) (y : Nibble) : Statement (.shr x y) := xyForm _ x y (Row.code_and_mask .shr)
theorem subnReg (x : Nibble) (y : Nibble) : Statement (.subnReg x y) := xyForm _ x y (Row.code_and_mask .subnReg)
theorem shl (x : Nibble) (y : Nibble) : Statement (.shl x y) := xyForm _ x y (Row.code_and_mask .shl)
theorem sneReg (x : Nibble) (y : Nibble) : Statement (.sneReg x y) := xyForm _ x y (Row.code_and_mask .sneReg)
theorem ldI (nnn : Addr) : Statement (.ldI nnn) := nnnForm _ nnn (Row.code_and_mask .ldI)
theorem jpV0 (nnn : Addr) : Statement (.jpV0 nnn) := nnnForm _ nnn (Row.code_and_mask .jpV0)
theorem rnd (x : Nibble) (kk : Byte) : Statement (.rnd x kk) := xkkForm _ x kk (Row.code_and_mask .rnd)
theorem drw (x : Nibble) (y : Nibble) (n : Nibble) : Statement (.drw x y n) := xynForm _ x y n (Row.code_and_mask .drw)
theorem skp (x : Nibble) : Statement (.skp x) := xForm _ x (Row.code_and_mask .skp)
theorem sknp (x : Nibble) : Statement (.sknp x) := xForm _ x (Row.code_and_mask .sknp)
theorem getDT (x : Nibble) : Statement (.getDT x) := xForm _ x (Row.code_and_mask .getDT)
theorem waitKey (x : Nibble) : Statement (.waitKey x) := xForm _ x (Row.code_and_mask .waitKey)
theorem setDT (x : Nibble) : Statement (.setDT x) := xForm _ x (Row.code_and_mask .setDT)
theorem setST (x : Nibble) : Statement (.setST x) := xForm _ x (Row.code_and_mask .setST)
theorem addI (x : Nibble) : Statement (.addI x) := xForm _ x (Row.code_and_mask .addI)
theorem ldF (x : Nibble) : Statement (.ldF x) := xForm _ x (Row.code_and_mask .ldF)
theorem bcd (x : Nibble) : Statement (.bcd x) := xForm _ x (Row.code_and_mask .bcd)
theorem storeRegs (x : Nibble) : Statement (.storeRegs x) := xForm _ x (Row.code_and_mask .storeRegs)
theorem loadRegs (x : Nibble) : Statement (.loadRegs x) := xForm _ x (Row.code_and_mask .loadRegs)

end Sys2Proof.Laws.CarriesMatch
end

