-- ==== Sys2Proof/Tests/Slice0.lean ====
section
/-! SUPPORT. The model's own tests, with expected results from spec/95_test_vectors.md (the vector is named
in each comment) or worked out from the patterns of spec/opcode_table.json, and a witness for the
hypotheses of each statement that has some. -/

open Sys2Proof Sys2Proof.Machine Sys2Proof.Stated

namespace Sys2Proof.Tests

/-! ### WellFormed: one ill-formed term for each check, refused by name -/

theorem test_wf_x : RawInstr.check { row := .ldImm, x := 16, kk := 3 } = some .x := by decide
theorem test_wf_y : RawInstr.check { row := .addReg, x := 1, y := 16 } = some .y := by decide
theorem test_wf_n : RawInstr.check { row := .drw, x := 1, y := 2, n := 16 } = some .n := by decide
theorem test_wf_kk : RawInstr.check { row := .addImm, x := 1, kk := 256 } = some .kk := by decide
theorem test_wf_nnn : RawInstr.check { row := .jp, nnn := 4096 } = some .nnn := by decide
/-- An operand that the row's format lacks. -/
theorem test_wf_lacking : RawInstr.check { row := .cls, x := 1 } = some .x := by decide
theorem test_wf_refused : RawInstr.toInstr { row := .drw, x := 1, y := 2, n := 16 } = none := by decide
theorem test_wf_limits : RawInstr.check { row := .addImm, x := 15, kk := 255 } = none ∧
    RawInstr.check { row := .seReg, x := 15, y := 15 } = none ∧
    RawInstr.check { row := .drw, x := 15, y := 15, n := 15 } = none ∧
    RawInstr.check { row := .jp, nnn := 4095 } = none ∧ RawInstr.check { row := .cls } = none := by decide
theorem test_wf_accepted :
    RawInstr.toInstr { row := .drw, x := 15, y := 2, n := 15 } = some (.drw 15 2 15) := by decide

/-! ### Decode: a word of every row, written out from its pattern (95_test_vectors.md section 3.2) -/

theorem test_decode_cls : decodeWord 0x00E0 = .instr (.cls) := by decide
theorem test_decode_ret : decodeWord 0x00EE = .instr (.ret) := by decide
theorem test_decode_jp : decodeWord 0x1FFF = .instr (.jp 0xFFF) := by decide
theorem test_decode_call : decodeWord 0x2300 = .instr (.call 0x300) := by decide
theorem test_decode_seImm : decodeWord 0x3110 = .instr (.seImm 1 0x10) := by decide
theorem test_decode_sneImm : decodeWord 0x4F01 = .instr (.sneImm 0xF 0x01) := by decide
theorem test_decode_seReg : decodeWord 0x5120 = .instr (.seReg 1 2) := by decide
theorem test_decode_ldImm : decodeWord 0x6A12 = .instr (.ldImm 0xA 0x12) := by decide
theorem test_decode_addImm : decodeWord 0x7A02 = .instr (.addImm 0xA 0x02) := by decide
theorem test_decode_ldReg : decodeWord 0x8120 = .instr (.ldReg 1 2) := by decide
theorem test_decode_orReg : decodeWord 0x8121 = .instr (.orReg 1 2) := by decide
theorem test_decode_andReg : decodeWord 0x8122 = .instr (.andReg 1 2) := by decide
theorem test_decode_xorReg : decodeWord 0x8123 = .instr (.xorReg 1 2) := by decide
theorem test_decode_addReg : decodeWord 0x8124 = .instr (.addReg 1 2) := by decide
theorem test_decode_subReg : decodeWord 0x8125 = .instr (.subReg 1 2) := by decide
theorem test_decode_shr : decodeWord 0x81F6 = .instr (.shr 1 0xF) := by decide
theorem test_decode_subnReg : decodeWord 0x8127 = .instr (.subnReg 1 2) := by decide
theorem test_decode_shl : decodeWord 0x812E = .instr (.shl 1 2) := by decide
theorem test_decode_sneReg : decodeWord 0x9AB0 = .instr (.sneReg 0xA 0xB) := by decide
theorem test_decode_ldI : decodeWord 0xA123 = .instr (.ldI 0x123) := by decide
theorem test_decode_jpV0 : decodeWord 0xB123 = .instr (.jpV0 0x123) := by decide
theorem test_decode_rnd : decodeWord 0xC1FF = .instr (.rnd 1 0xFF) := by decide
theorem test_decode_drw : decodeWord 0xDABF = .instr (.drw 0xA 0xB 0xF) := by decide
theorem test_decode_skp : decodeWord 0xE19E = .instr (.skp 1) := by decide
theorem test_decode_sknp : decodeWord 0xE1A1 = .instr (.sknp 1) := by decide
theorem test_decode_getDT : decodeWord 0xF107 = .instr (.getDT 1) := by decide
theorem test_decode_waitKey : decodeWord 0xF10A = .instr (.waitKey 1) := by decide
theorem test_decode_setDT : decodeWord 0xF115 = .instr (.setDT 1) := by decide
theorem test_decode_setST : decodeWord 0xF118 = .instr (.setST 1) := by decide
theorem test_decode_addI : decodeWord 0xF11E = .instr (.addI 1) := by decide
theorem test_decode_ldF : decodeWord 0xF129 = .instr (.ldF 1) := by decide
theorem test_decode_bcd : decodeWord 0xF133 = .instr (.bcd 1) := by decide
theorem test_decode_storeRegs : decodeWord 0xF355 = .instr (.storeRegs 3) := by decide
theorem test_decode_loadRegs : decodeWord 0xF265 = .instr (.loadRegs 2) := by decide

/-- The words that 95_test_vectors.md section 3.2 lists as unknown. -/
theorem test_decode_unknown :
    (([0x0000, 0x0123, 0x00E1, 0x00FE, 0x0FFF, 0x5121, 0x512F, 0x9AB1, 0x8128, 0x8129, 0x812A, 0x812B,
      0x812C, 0x812D, 0x812F] ++
     [0xE100, 0xE19F, 0xE1A2, 0xE1FF, 0xF100, 0xF101, 0xF10B, 0xF175, 0xF185, 0xF1FF] : List Word)).all
      (fun w => decide (decodeWord w = .unknown w)) = true := by decide
/-- T10: the high byte comes first. -/
theorem test_decode_bytes : decodeBytes [0x6A, 0x12, 0x77] = .ok (.ldImm 0xA 0x12, [0x77]) := by rfl
theorem test_decode_truncated : decodeBytes [0x6A] = .error .truncated := by rfl
theorem test_encode_drw : encodeBytes (.drw 0xA 0xB 0xF) = [0xDA, 0xBF] := by decide
theorem test_decodeTableWord : decodeTableWord 16 0x8124 = some (.addReg 1 2) := by decide
theorem test_decodeTableWord_unknown : decodeTableWord 16 0x5121 = none := by decide

/-! ### One step on a small state -/

/-- The reset state with some registers set. -/
def regs (l : List (Nibble × Byte)) : State := l.foldl (fun s p => s.writeV p.1 p.2) State.reset

/-- The reset state with an index, some registers and some bytes set. -/
def data (index : Word) (l : List (Nibble × Byte)) (m : List (Addr × Byte)) : State :=
  { m.foldl (fun s p => s.memWrite p.1 p.2) (regs l) with I := index }

/-- The state after one step that runs a word, where there is one. -/
def run1 (s : State) (w : Nat) : Option State :=
  match step (s.withFetchWord 16 w) with
  | .next t => some t
  | .fault _ => none
  | .refused _ => none

/-- What a test looks at: a register, `VF`, `pc`. -/
def see (r : Nibble) (t : State) : Byte × Byte × Word := (t.readV r, t.readV 0xF, t.pc)

/-! Control flow (section 3.3) and the step machinery (section 3.1) -/

/-- CF1. -/
theorem test_jp :
    (run1 (regs []) 0x1234).map (see 0) = some (0, 0, 0x234) := by decide
/-- SM12: a jump below `PC_MIN` completes; the next step faults. -/
theorem test_jp_low : (run1 State.reset 0x1050).map (fun t => (t.pc, step t)) =
    some (0x0050, .fault .pcOutOfRange) := by rfl
/-- CF5: the pushed value from 0x0FFE is 0x1000. -/
theorem test_call : (run1 { State.reset with pc := 0x0FFE } 0x2300).map
    (fun t => (t.Stack[0], t.sp, t.pc)) = some (0x1000, 1, 0x300) := by decide
/-- SM10. -/
theorem test_call_overflow :
    step ({ State.reset with sp := 16 }.withFetchWord 16 0x2200) = .fault .stackOverflow := by rfl
/-- CF6: the entry keeps its bits. -/
theorem test_ret : (run1 { State.reset with sp := 1, Stack := State.reset.Stack.set 0 0x0204 } 0x00EE).map
    (fun t => (t.Stack[0], t.sp, t.pc)) = some (0x0204, 0, 0x0204) := by decide
/-- SM9. -/
theorem test_ret_underflow :
    step (State.reset.withFetchWord 16 0x00EE) = .fault .stackUnderflow := by rfl
/-- CF8. -/
theorem test_seImm_taken :
    (run1 (regs [(1, 0x10)]) 0x3110).map (see 1) = some (0x10, 0, 0x204) := by decide
/-- CF9. -/
theorem test_seImm :
    (run1 (regs [(1, 0x11)]) 0x3110).map (see 1) = some (0x11, 0, 0x202) := by decide
/-- CF10. -/
theorem test_sneImm :
    (run1 (regs [(1, 0x10)]) 0x4110).map (see 1) = some (0x10, 0, 0x202) := by decide
/-- CF11. -/
theorem test_sneImm_taken :
    (run1 (regs [(1, 0x11)]) 0x4110).map (see 1) = some (0x11, 0, 0x204) := by decide
/-- CF13. -/
theorem test_seReg_taken :
    (run1 (regs [(1, 7), (2, 7)]) 0x5120).map (see 1) = some (7, 0, 0x204) := by decide
/-- CF14. -/
theorem test_seReg :
    (run1 (regs [(1, 7), (2, 8)]) 0x5120).map (see 1) = some (7, 0, 0x202) := by decide
/-- CF16. -/
theorem test_sneReg_taken :
    (run1 (regs [(1, 7), (2, 8)]) 0x9120).map (see 1) = some (7, 0, 0x204) := by decide
/-- CF17. -/
theorem test_sneReg :
    (run1 (regs [(1, 7), (2, 7)]) 0x9120).map (see 1) = some (7, 0, 0x202) := by decide
/-- CF20. -/
theorem test_jpV0 :
    (run1 (regs [(0, 0xFF)]) 0xBFFF).map (see 0) = some (0xFF, 0, 0x10FE) := by decide
/-- CF21: the register is V0, not Vx. -/
theorem test_jpV0_v0 :
    (run1 (regs [(3, 0x55)]) 0xB300).map (see 3) = some (0x55, 0, 0x300) := by decide

/-! Arithmetic and logic (section 3.4) -/

/-- AL1. -/
theorem test_ldImm :
    (run1 (regs []) 0x6A12).map (see 0xA) = some (0x12, 0, 0x202) := by decide
/-- AL3. -/
theorem test_addImm :
    (run1 (regs [(0xA, 0xFF), (0xF, 0x55)]) 0x7A02).map (see 0xA) = some (1, 0x55, 0x202) := by decide
/-- AL5. -/
theorem test_addImm_vf :
    (run1 (regs [(0xF, 0xFF)]) 0x7F01).map (see 0xF) = some (0, 0, 0x202) := by decide
/-- AL6. -/
theorem test_ldReg :
    (run1 (regs [(1, 1), (2, 0x55)]) 0x8120).map (see 1) = some (0x55, 0, 0x202) := by decide
/-- AL7. -/
theorem test_orReg :
    (run1 (regs [(1, 0xF0), (2, 0x0F), (0xF, 0x77)]) 0x8121).map (see 1) = some (0xFF, 0x77, 0x202) := by decide
/-- AL8. -/
theorem test_andReg :
    (run1 (regs [(1, 0xF0), (2, 0x3C)]) 0x8122).map (see 1) = some (0x30, 0, 0x202) := by decide
/-- AL9. -/
theorem test_xorReg :
    (run1 (regs [(1, 0xF0), (2, 0x3C)]) 0x8123).map (see 1) = some (0xCC, 0, 0x202) := by decide
/-- AL11. -/
theorem test_addReg :
    (run1 (regs [(1, 0xFF), (2, 1)]) 0x8124).map (see 1) = some (0, 1, 0x202) := by decide
/-- AL16: the flag stands. -/
theorem test_addReg_vf :
    (run1 (regs [(0xF, 0x10), (2, 0x20)]) 0x8F24).map (see 0xF) = some (0, 0, 0x202) := by decide
/-- AL21. -/
theorem test_subReg :
    (run1 (regs [(1, 3), (2, 5)]) 0x8125).map (see 1) = some (0xFE, 0, 0x202) := by decide
/-- AL27: the flag is computed from the values before. -/
theorem test_subReg_y_vf :
    (run1 (regs [(1, 0x10), (0xF, 0x20)]) 0x81F5).map (see 1) = some (0xF0, 0, 0x202) := by decide
/-- AL28. -/
theorem test_shr :
    (run1 (regs [(1, 5), (2, 0xFF)]) 0x8126).map (see 1) = some (2, 1, 0x202) := by decide
/-- AL33. -/
theorem test_shr_vf :
    (run1 (regs [(0xF, 3)]) 0x8F26).map (see 0xF) = some (0, 0, 0x202) := by decide
/-- AL36. -/
theorem test_subnReg :
    (run1 (regs [(1, 5), (2, 3)]) 0x8127).map (see 1) = some (0xFE, 0, 0x202) := by decide
/-- AL39. -/
theorem test_subnReg_vf :
    (run1 (regs [(0xF, 3), (2, 5)]) 0x8F27).map (see 0xF) = some (1, 1, 0x202) := by decide
/-- AL41. -/
theorem test_shl :
    (run1 (regs [(1, 0x81)]) 0x812E).map (see 1) = some (2, 1, 0x202) := by decide
/-- AL46. -/
theorem test_shl_vf :
    (run1 (regs [(0xF, 0x81)]) 0x8F2E).map (see 0xF) = some (2, 2, 0x202) := by decide
/-- AL50, for whatever the random byte is. -/
theorem test_rnd : (run1 (regs [(1, 0x77)]) 0xC100).map (fun t => (t.readV 1, t.draws, t.pc)) =
    some (Config.rnd 0 &&& 0, 1, 0x202) := by rfl
/-- AL51, for whatever the random byte is. -/
theorem test_rnd_full : (run1 State.reset 0xC1FF).map (fun t => t.readV 1) =
    some (Config.rnd 0 &&& 0xFF) := by rfl

/-! Index register and memory (section 3.5) -/

/-- IM2. -/
theorem test_ldI : (run1 (data 0x1234 [] []) 0xAFFF).map (fun t => (t.I, t.pc)) =
    some (0x0FFF, 0x202) := by decide
/-- IM4. -/
theorem test_addI : (run1 (data 0x0FFF [(1, 1), (0xF, 0x55)] []) 0xF11E).map
    (fun t => (t.I, t.readV 0xF, t.pc)) = some (0x1000, 0x55, 0x202) := by decide
/-- IM6. -/
theorem test_addI_wraps : (run1 (data 0xFFF0 [(1, 0xFF)] []) 0xF11E).map (·.I) = some 0x00EF := by decide
/-- IM10. -/
theorem test_ldF : (run1 (regs [(1, 0x0A)]) 0xF129).map (fun t => (t.I, t.pc)) =
    some (0x0082, 0x202) := by decide
/-- IM14. -/
theorem test_ldF_low_nibble : (run1 (regs [(1, 0xFF)]) 0xF129).map (·.I) = some 0x009B := by decide
/-- IM21. -/
theorem test_bcd_wraps : (run1 (data 0x0FFE [(1, 0x7B)] []) 0xF133).map
    (fun t => (t.memRead 0xFFE, t.memRead 0xFFF, t.memRead 0x000, t.I)) =
      some (1, 2, 3, 0x0FFE) := by decide
/-- IM22: the full index reduced to 12 bits. -/
theorem test_bcd : (run1 (data 0x1300 [(1, 0x7B)] []) 0xF133).map
    (fun t => (t.memRead 0x300, t.memRead 0x301, t.memRead 0x302, t.I, t.pc)) =
      some (1, 2, 3, 0x1300, 0x202) := by decide
/-- IM23. -/
theorem test_storeRegs : (run1 (data 0x0400 [(0, 0x11), (1, 0x22), (2, 0x33), (3, 0x44), (4, 0x55)] [])
    0xF355).map (fun t => ([0x400, 0x401, 0x402, 0x403, 0x404].map t.memRead, t.I, t.pc)) =
      some ([0x11, 0x22, 0x33, 0x44, 0x00], 0x0400, 0x202) := by decide
/-- IM30: a font byte is overwritten. -/
theorem test_storeRegs_font : (run1 (data 0x0050 [] []) 0xF055).map (fun t => t.memRead 0x050) =
    some 0 := by decide
/-- IM27. -/
theorem test_loadRegs : (run1 (data 0x0600 [(3, 0x99)]
    [(0x600, 0xDE), (0x601, 0xAD), (0x602, 0xBE), (0x603, 0xEF)]) 0xF265).map
    (fun t => ([0, 1, 2, 3].map t.readV, t.I, t.pc)) =
      some ([0xDE, 0xAD, 0xBE, 0x99], 0x0600, 0x202) := by decide
/-- IM29. -/
theorem test_loadRegs_wraps : (run1 (data 0x0FFF [] [(0xFFF, 0x77), (0x000, 0x88)]) 0xF165).map
    (fun t => (t.readV 0, t.readV 1)) = some (0x77, 0x88) := by decide

/-! Display (section 3.6) -/

/-- DS3. -/
theorem test_cls : (run1 ({ regs [(0xF, 5)] with Disp := Vector.replicate 32 0xFF }) 0x00E0).map
    (fun t => (t.Disp, t.readV 0xF, t.pc)) = some (Vector.replicate 32 0, 5, 0x202) := by decide
/-- DS5: both coordinates wrap, bit 7 is leftmost: (7,1) and (8,1). -/
theorem test_drw : (run1 (data 0x0300 [(1, 0x47), (2, 0x21)] [(0x300, 0xC0)]) 0xD121).map
    (fun t => (t.Disp, t.readV 0xF, t.pc)) =
      some ((Vector.replicate 32 0).set 1 0x180, 0, 0x202) := by decide +kernel
/-- DS7, its second draw: a collision, (0,0) (1,0) (4,0) (5,0) left. -/
theorem test_drw_collision : (run1 ({ data 0x0300 [] [(0x300, 0x3C)] with
    Disp := State.reset.Disp.set 0 0x0F }) 0xD121).map (fun t => (t.Disp[0], t.readV 0xF)) =
      some (0x33, 1) := by decide +kernel

/-! Keypad and timers (section 3.7) -/

/-- KT5. -/
theorem test_skp : (run1 ((regs [(1, 0x15)]).writeKey 5 true) 0xE19E).map (·.pc) = some 0x204 := by decide
/-- KT2. -/
theorem test_skp_up : (run1 (regs [(1, 5)]) 0xE19E).map (·.pc) = some 0x202 := by decide
/-- KT3. -/
theorem test_sknp : (run1 (regs [(1, 5)]) 0xE1A1).map (·.pc) = some 0x204 := by decide
/-- KT6. -/
theorem test_sknp_down : (run1 ((regs [(1, 0xF5)]).writeKey 5 true) 0xE1A1).map (·.pc) =
    some 0x202 := by decide
/-- KT8. -/
theorem test_getDT : (run1 { State.reset with DT := 0x3C } 0xF207).map (fun t => (t.readV 2, t.DT, t.pc)) =
    some (0x3C, 0x3C, 0x202) := by decide
/-- KT9. -/
theorem test_setDT : (run1 (regs [(2, 0x3C)]) 0xF215).map (fun t => (t.DT, t.ST, t.pc)) =
    some (0x3C, 0, 0x202) := by decide
/-- KT10. -/
theorem test_setST : (run1 (regs [(2, 2)]) 0xF218).map (fun t => (t.ST, t.DT, t.soundActive, t.pc)) =
    some (2, 0, true, 0x202) := by decide
/-- KT18, the step. -/
theorem test_waitKey : (run1 State.reset 0xFF0A).map (fun t => (t.waiting, t.waitReg, t.pc)) =
    some (true, 0xF, 0x202) := by decide
/-- KT18, the press. -/
theorem test_waitKey_press : (run1 State.reset 0xFF0A).map
    (fun t => ((setKey 0xC true t).readV 0xF, (setKey 0xC true t).waiting)) = some (0x0C, false) := by decide
/-- KT12. -/
theorem test_tick : (let t := tick { State.reset with DT := 1, ST := 3 }; (t.DT, t.ST)) = (0, 2) := by decide
/-- KT11. -/
theorem test_tick_zero : (let t := tick State.reset; (t.DT, t.ST)) = (0, 0) := by decide

/-! The step machinery (section 3.1) and transactions -/

/-- SM1. -/
theorem test_unknown : transact .step State.reset =
    (.unknownOpcode 0x0000, { State.reset with pc := 0x202 }) := by rfl
/-- R128: an instruction's step replies `Ok` with no event. -/
theorem test_instr_ok : (transact .step (State.reset.withFetchWord 16 0x6A12)).1 = .ok := by rfl
/-- SM6: the last fetch address. -/
theorem test_last_fetch : (run1 { State.reset with pc := 0x0FFE } 0x6012).map
    (fun t => (t.readV 0, t.pc, step t)) = some (0x12, 0x1000, .fault .pcOutOfRange) := by rfl
/-- SM8: an odd `pc` is legal. -/
theorem test_odd_pc : (run1 { State.reset with pc := 0x0201 } 0x6A12).map (see 0xA) =
    some (0x12, 0, 0x203) := by decide
/-- SM5. -/
theorem test_low_pc : step { State.reset with pc := 0x01FE } = .fault .pcOutOfRange := by rfl
/-- SM4. -/
theorem test_high_pc : step { State.reset with pc := 0x0FFF } = .fault .pcOutOfRange := by rfl
/-- SM11: the wait is tested before the range. -/
theorem test_wait_out_of_range : transact .step { State.reset with waiting := true, pc := 0x0FFF } =
    (.ok, { State.reset with waiting := true, pc := 0x0FFF }) := by rfl
/-- T6 on a small image: the first bytes, and memory below 0x200 kept. -/
theorem test_load : (let s := (load [0xAA, 0xBB] State.reset).2
    (s.memRead 0x200, s.memRead 0x201, s.memRead 0x1FF, s.memRead 0x050)) = (0xAA, 0xBB, 0, 0xF0) := by decide
/-- T4: a call and its return, run from memory. -/
theorem test_call_ret : ((run1 State.reset 0x2300).bind fun t =>
    (run1 t 0x00EE)).map (fun t => (t.sp, t.pc)) = some (0, 0x202) := by decide
/-- Memory stays canonical: storing an address's reset byte leaves nothing listed. -/
theorem test_mem_canonical :
    ((State.reset.memWrite 0x300 5).memWrite 0x300 0) = State.reset := by decide
/-- CF2: the self-jump that ends a run. -/
theorem test_idle : (State.reset.withFetchWord 16 0x1200).idle = true := by decide

/-! ### Witnesses: a concrete state and operands that meet the hypotheses of each statement -/

/-- A state whose word at `pc` is the given one. -/
def holding (w : Nat) : State := State.reset.withFetchWord 16 w

theorem witness_EncodingADecodedWordGivesItBack : decodeWord 0x81F6 = .instr (.shr 1 0xF) := by decide
theorem witness_DecoderFollowsTheOpcodeMap :
    (0x8124 : Word) &&& Row.addReg.format.mask = Row.addReg.code := by decide
theorem witness_WellFormedNumbersEncodeAtTheirPlaces :
    RawInstr.WellFormed { row := .call, nnn := 4095 } = true ∧
    RawInstr.WellFormed { row := .call, nnn := 4096 } = false := by decide
theorem witness_StepRunsTheDecodedInstruction :
    (holding 0x8124).waiting = false ∧ (0x0200 ≤ (holding 0x8124).pc.toNat ∧ (holding 0x8124).pc.toNat ≤ 0x0FFE) ∧
    decodeBytes [(holding 0x8124).memRead (BitVec.ofNat 12 (holding 0x8124).pc.toNat),
      (holding 0x8124).memRead (BitVec.ofNat 12 ((holding 0x8124).pc.toNat + 1))] =
        .ok (.addReg 1 2, []) := ⟨rfl, by decide, rfl⟩
/-- Its clauses on the reply: an instruction that answers a next state, and one that faults. -/
theorem witness_StepRunsTheDecodedInstruction_reply :
    (∃ t, exec (.addReg 1 2) (holding 0x8124) = .next t) ∧
    exec .ret (holding 0x00EE) = .fault .stackUnderflow ∧
    decodeBytes [(holding 0x00EE).memRead 0x200, (holding 0x00EE).memRead 0x201] = .ok (.ret, []) :=
  ⟨⟨_, rfl⟩, rfl, rfl⟩
/-- `FetchIsBigEndian`, at both ends of the range. -/
theorem witness_FetchIsBigEndian :
    InRange State.reset ∧ InRange { State.reset with pc := 0x0FFE } := by
  unfold InRange; decide
theorem witness_KeyWaitStepChangesNothing : ({ State.reset with waiting := true } : State).waiting = true ∧
    (transact (.setKey 3 true) { State.reset with waiting := true }).2.waiting = false ∧
    (transact .reset { State.reset with waiting := true }).2.waiting = false := by decide
/-- `UnknownOpcodeOnlyAdvances`: the word 0x5121 of T12 matches no row. -/
theorem witness_UnknownOpcodeOnlyAdvances : (holding 0x5121).waiting = false ∧
    (0x0200 ≤ (holding 0x5121).pc.toNat ∧ (holding 0x5121).pc.toNat ≤ 0x0FFE) ∧
    ∀ r : Row, (holding 0x5121).fetch &&& r.format.mask ≠ r.code := by
  refine ⟨rfl, by decide, fun r => ?_⟩
  cases r <;> decide
/-- `FaultsExactlyUnderTheirConditions`, each right-hand side. -/
theorem witness_FaultsExactlyUnderTheirConditions :
    decodeWord ({ State.reset with sp := 16 }.withFetchWord 16 0x2200).fetch = .instr (.call 0x200) ∧
    decodeWord (holding 0x00EE).fetch = .instr .ret ∧ (holding 0x00EE).sp.val = 0 ∧
    ({ State.reset with pc := 0x01FF } : State).pc.toNat < 0x0200 ∧
    0x0FFE < ({ State.reset with pc := 0x0FFF } : State).pc.toNat := by decide
/-- `FaultsArePreciseAndRepeat`, each fault. -/
theorem witness_FaultsArePreciseAndRepeat :
    step ({ State.reset with sp := 16 }.withFetchWord 16 0x2200) = .fault .stackOverflow ∧
    step (holding 0x00EE) = .fault .stackUnderflow ∧
    step { State.reset with pc := 0x0FFF } = .fault .pcOutOfRange := ⟨rfl, rfl, rfl⟩
/-- `StoredBytesAreFetchedNext`: program P6, with `I` one instruction ahead, and at both ends of the range. -/
theorem witness_StoredBytesAreFetchedNext :
    ((0 : Nat) < BitVec.toNat (1 : Nibble) ∧ 0x0200 ≤ (data 0x0204 [] []).pc.toNat + 2 ∧
      (data 0x0204 [] []).pc.toNat + 2 ≤ 0x0FFE ∧
      ((data 0x0202 [] []).I.toNat + 0) % 4096 = (data 0x0202 [] []).pc.toNat + 2) ∧
    (0x0200 ≤ (0x01FE : Word).toNat + 2 ∧ ((0x11FF : Word).toNat + 1) % 4096 = (0x01FE : Word).toNat + 2) ∧
    ((0x0FFC : Word).toNat + 2 ≤ 0x0FFE ∧ ((0x0FFE : Word).toNat + 0) % 4096 = (0x0FFC : Word).toNat + 2) := by
  decide
/-- `JumpsSetTheProgramCounter`: targets that fault at the next step, at the ends of their ranges. -/
theorem witness_JumpsSetTheProgramCounter : State.reset.waiting = false ∧
    ((0x1FF : Addr).toNat < 0x200 ∧ (0xFFF : Addr).toNat = 0xFFF) ∧
    ((0x100 : Addr).toNat + ((regs [(0, 0xFF)]).readV 0).toNat < 0x200 ∧
      0xFFE < (0xF00 : Addr).toNat + ((regs [(0, 0xFF)]).readV 0).toNat) := by decide
/-- `CallPushesOrOverflows` and `ReturnPopsOrUnderflows`: both sides of both limits. -/
theorem witness_CallPushesOrOverflows : ({ State.reset with sp := 16 } : State).sp.val = 16 ∧
    ({ State.reset with sp := 15 } : State).sp.val < 16 := by decide
theorem witness_ReturnPopsOrUnderflows : State.reset.sp.val = 0 ∧
    ({ State.reset with sp := 1 } : State).sp.val ≠ 0 ∧
    (0 : Fin 16).val + 1 = ({ State.reset with sp := 1 } : State).sp.val ∧
    (15 : Fin 16).val + 1 = ({ State.reset with sp := 16 } : State).sp.val := by decide
/-- `ReturnUndoesCall`: a call at the last free entry, and a later state with the same stack. -/
theorem witness_ReturnUndoesCall : ({ State.reset with sp := 15 } : State).sp.val < 16 ∧
    (run1 { State.reset with sp := 15 } 0x2300).map (fun t => (t.sp, t.Stack[15])) =
      some (16, 0x202) := by decide
/-- `ArithmeticResultsAndFlags` and `ShiftResultsAndFlags`: `x` other than 0xF, and 0xF. -/
theorem witness_ArithmeticResultsAndFlags : (0xE : Nibble) ≠ 0xF ∧ (0xF : Nibble) = 0xF := by decide
theorem witness_ShiftResultsAndFlags : (0 : Nibble) ≠ 0xF ∧ (0xF : Nibble) = 0xF := by decide
/-- `RegisterSkips`: the low digits that are no skip, at both ends. -/
theorem witness_RegisterSkips : ((0 < 1 ∧ 1 < 16) ∧ (0 < 15 ∧ 15 < 16)) ∧
    decodeWord (patXY 0x5 1 2 1) = .unknown 0x5121 ∧ decodeWord (patXY 0x9 0xA 0xB 15) = .unknown 0x9ABF := by
  decide
/-- `DecimalDigitsAreStored` and the block transfers: an address outside the stored bytes, and one inside. -/
theorem witness_BlockStoreWritesRegisters :
    (∀ k, k ≤ BitVec.toNat (3 : Nibble) → (0x404 : Addr) ≠ (data 0x0400 [] []).ea k) ∧
    BitVec.toNat (3 : Nibble) ≤ BitVec.toNat (3 : Nibble) := by
  refine ⟨fun k hk => ?_, Nat.le_refl _⟩
  have : k ≤ 3 := hk
  obtain rfl | rfl | rfl | rfl : k = 0 ∨ k = 1 ∨ k = 2 ∨ k = 3 := by omega
  all_goals decide
theorem witness_DecimalDigitsAreStored :
    ∀ k, k < 3 → (0x303 : Addr) ≠ (data 0x0300 [] []).ea k := by
  intro k hk
  obtain rfl | rfl | rfl : k = 0 ∨ k = 1 ∨ k = 2 := by omega
  all_goals decide
/-- `DrawXorsTheSprite`: a sprite bit on a lit pixel (the collision clause), and no sprite bit at all. -/
theorem witness_DrawXorsTheSprite :
    (∃ px py, ({ data 0 [] [(0, 0x80)] with Disp := State.reset.Disp.set 0 1 } : State).pixel px py = true ∧
      SpriteOn { data 0 [] [(0, 0x80)] with Disp := State.reset.Disp.set 0 1 } 0 0 1 px py) ∧
    ¬ ∃ px py, State.reset.pixel px py = true ∧ SpriteOn State.reset 0 0 0 px py := by
  refine ⟨⟨0, 0, by decide, 0, 0, by decide, by decide, by decide, by decide, by decide⟩, ?_⟩
  rintro ⟨px, py, -, r, c, hr, -⟩
  exact absurd hr (Nat.not_lt_zero r)
theorem witness_DrawingTwiceRestoresTheDisplay : (1 : Nibble) ≠ 0xF ∧ (0xE : Nibble) ≠ 0xF := by decide
theorem witness_KeySkips : BitVec.toNat (5 : Nibble) = ((regs [(1, 0xF5)]).readV 1).toNat % 16 := by decide
/-- `KeyWaitInstruction`: a key that is up, and one that is down. -/
theorem witness_KeyWaitInstruction : State.reset.keyDown 0xF = false ∧
    (State.reset.writeKey 0 true).keyDown 0 = true := by decide
theorem witness_SetKeyWritesAndCaptures :
    (({ State.reset with waiting := true } : State).waiting = true ∧ true = true ∧
      ({ State.reset with waiting := true } : State).keyDown 3 = false) ∧
    ¬ (State.reset.waiting = true ∧ true = true ∧ State.reset.keyDown 3 = false) := by decide
/-- `LoadIsAllOrNothing`: the sizes of T6. -/
theorem witness_LoadIsAllOrNothing : 3584 < (List.replicate 3585 (0xBB : Byte)).length ∧
    (List.replicate 3584 (0xAA : Byte)).length ≤ 3584 := by
  simp only [List.length_replicate]; decide
theorem witness_FirstFetchIsTheFirstLoadedWord :
    (List.replicate 3582 (0 : Byte)).length + 2 ≤ 3584 ∧ ([] : List Byte).length + 2 ≤ 3584 := by
  simp only [List.length_replicate]; decide
/-- `HostTransactionsLeaveAlone`: each transaction it speaks of, and each of its conditions. -/
theorem witness_HostTransactionsLeaveAlone : (Transaction.tick ≠ .step ∧ Transaction.tick ≠ .reset) ∧
    (Transaction.setKey 3 true ≠ .step ∧ Transaction.setKey 3 true ≠ .reset ∧
      Transaction.setKey 3 true ≠ .tick ∧ ∀ bytes, Transaction.setKey 3 true ≠ .load bytes) ∧
    (Transaction.load [1] ≠ .step ∧ Transaction.load [1] ≠ .reset ∧ Transaction.load [1] ≠ .tick) ∧
    (State.reset.waiting = false ∧ (1 : Nibble) ≠ State.reset.waitReg ∧ (0x1FF : Addr).toNat < 0x200) := by
  simp [State.reset]
/-- `StepKeepsTheInvariant`, `TransactionsKeepTheInvariant`: a state with a live stack entry meets the
invariant, and a step of it answers a next state. -/
theorem witness_StepKeepsTheInvariant :
    Inv (holding 0x6A12) ∧ Inv ({ State.reset with sp := 1, Stack := State.reset.Stack.set 0 0x0202 } : State) ∧
    (run1 State.reset 0x6A12).isSome = true := by
  refine ⟨⟨by decide, by decide, fun k hk => absurd hk (Nat.not_lt_zero _)⟩, ⟨rfl, by decide, fun k hk => ?_⟩,
    by decide⟩
  have h0 : k = 0 := Fin.ext (by have : k.val < 1 := hk; omega)
  subst h0
  decide
theorem witness_TransactionsKeepTheInvariant :
    Inv ({ State.reset with sp := 1, Stack := State.reset.Stack.set 0 0x0202 } : State) :=
  witness_StepKeepsTheInvariant.2.1
/-- `KeyWaitPointsBackAtItsInstruction`: a waiting state that meets it, and transactions that are no load. -/
theorem witness_KeyWaitPointsBackAtItsInstruction :
    WaitInv { holding 0xF30A with waiting := true, waitReg := 3, pc := 0x202 } ∧
    (∀ bytes, Transaction.step ≠ .load bytes) := by
  refine ⟨fun _ => ⟨by decide, by decide, by decide⟩, fun _ => by simp⟩
/-- The statements over every next state of `exec`, and those over two steps: instructions that answer one. -/
theorem witness_OnlyTheNamedRowsChangeEachState :
    (∃ t, exec (.call 0x300) State.reset = .next t) ∧ (∃ t, exec .cls State.reset = .next t) ∧
    (∃ t, exec .ret { State.reset with sp := 1 } = .next t) := ⟨⟨_, rfl⟩, ⟨_, rfl⟩, ⟨_, rfl⟩⟩
/-- Each clause of `OnlyTheNamedRowsChangeEachState`: an instruction that does change that state. -/
theorem witness_OnlyTheNamedRowsChangeEachState_clauses :
    (∃ t, exec .cls { State.reset with Disp := State.reset.Disp.set 0 1 } = .next t ∧
      t.Disp ≠ State.reset.Disp.set 0 1) ∧
    (∃ t, exec (.call 0x300) State.reset = .next t ∧ t.Stack ≠ State.reset.Stack ∧ t.sp ≠ State.reset.sp) ∧
    (∃ t, exec (.ldI 1) State.reset = .next t ∧ t.I ≠ State.reset.I) ∧
    (∃ t, exec (.setDT 1) (regs [(1, 2)]) = .next t ∧ t.DT ≠ (regs [(1, 2)]).DT) ∧
    (∃ t, exec (.setST 1) (regs [(1, 2)]) = .next t ∧ t.ST ≠ (regs [(1, 2)]).ST) ∧
    (∃ t, exec (.waitKey 1) State.reset = .next t ∧ t.waiting ≠ State.reset.waiting) ∧
    (∃ t, exec (.bcd 1) (data 0x300 [(1, 2)] []) = .next t ∧ t.Mem ≠ (data 0x300 [(1, 2)] []).Mem) ∧
    (∃ t, exec (.ldImm 1 2) State.reset = .next t ∧ t.V ≠ State.reset.V) :=
  ⟨⟨_, rfl, by decide⟩, ⟨_, rfl, by decide, by decide⟩, ⟨_, rfl, by decide⟩, ⟨_, rfl, by decide⟩,
    ⟨_, rfl, by decide⟩, ⟨_, rfl, by decide⟩, ⟨_, rfl, by decide⟩, ⟨_, rfl, by decide⟩⟩
theorem witness_ProgramCounterAfterEachInstruction :
    (∃ t, exec (.jpV0 0xFFF) (regs [(0, 0xFF)]) = .next t) ∧ (∃ t, exec (.seImm 1 0) State.reset = .next t) ∧
    (∃ t, exec .ret { State.reset with sp := 16 } = .next t) ∧
    (15 : Fin 16).val + 1 = ({ State.reset with sp := 16 } : State).sp.val :=
  ⟨⟨_, rfl⟩, ⟨_, rfl⟩, ⟨_, rfl⟩, by decide⟩
theorem witness_SoundTimerIsReadByNoInstruction :
    (∃ t, step (holding 0xF218) = .next t) ∧ step (holding 0x00EE) = .fault .stackUnderflow :=
  ⟨⟨_, rfl⟩, rfl⟩
/-- `DeadStackEntriesAreNotObservable`: stacks that differ in a dead entry alone. -/
theorem witness_DeadStackEntriesAreNotObservable :
    (∀ k : Fin 16, k.val < ({ State.reset with sp := 1 } : State).sp.val →
      (State.reset.Stack.set 1 0x0204)[k] = State.reset.Stack[k]) ∧
    State.reset.Stack.set 1 0x0204 ≠ State.reset.Stack := by decide
/-- `OnlyRandomReadsTheRandomByte`: a step that is not `Cxkk`. -/
theorem witness_OnlyRandomReadsTheRandomByte :
    (∀ x kk, decodeWord (holding 0x6A12).fetch ≠ .instr (.rnd x kk)) ∧
    ∃ t, step (holding 0x6A12) = .next t := by
  have h : decodeWord (holding 0x6A12).fetch = .instr (.ldImm 0xA 0x12) := by decide
  exact ⟨fun x kk hx => by rw [h] at hx; simp at hx, _, rfl⟩
theorem witness_CanonicalMemoryIsItsBytes : Memory.wf [(0x050, 0), (0x200, 1), (0xFFF, 2)] = true := by decide
/-- `EmptyMemoryRunsToTheEnd`: the reset state at the lowest, an odd and the highest address of the range,
whose bytes from there on are zero, and the step counts at which `pc` passes 0x0FFE. -/
theorem witness_EmptyMemoryRunsToTheEnd :
    (∀ p : Word, 0x200 ≤ p.toNat → ∀ a : Addr, p.toNat ≤ a.toNat →
      ({ State.reset with pc := p } : State).memRead a = 0) ∧
    InRange State.reset ∧ InRange { State.reset with pc := 0x0FFD } ∧ InRange { State.reset with pc := 0x0FFE } ∧
    (0x0FFE < 0x200 + 2 * 1792 ∧ 0x200 + 2 * 1792 ≤ 0x1000) ∧
    (0x0FFE < 0x0FFD + 2 * 1 ∧ 0x0FFD + 2 * 1 ≤ 0x1000) ∧ (0x0FFE < 0x0FFE + 2 * 1 ∧ 0x0FFE + 2 * 1 ≤ 0x1000) := by
  refine ⟨fun p hp a ha => ?_, ?_⟩
  · simp only [State.memRead, State.reset, Memory.read, Memory.background, resetByte, fontBase, fontBytes]
    rw [dif_neg (by omega)]
  · unfold InRange; decide

end Sys2Proof.Tests
end

section
/-! SUPPORT. What a step can do, said once: the effect of an instruction that answers a next state
(`Effect`, with `exec_effect`), and the cases of a step around it. -/

namespace Sys2Proof.Machine

/-- The rows whose own effect is on general registers alone, the random row left out. -/
def registerRows : List Row :=
  [.ldImm, .addImm, .ldReg, .orReg, .andReg, .xorReg, .addReg, .subReg, .shr, .subnReg, .shl,
    .getDT, .loadRegs]

/-- The six skips. -/
def skipRows : List Row := [.seImm, .sneImm, .seReg, .sneReg, .skp, .sknp]

/-- The next states an instruction can answer from `s`: which fields it sets, all others being kept, and
where it leaves `pc`. Values that a frame or an invariant does not depend on are left open. -/
inductive Effect (s : State) : Instr → State → Prop
  | registers {i : Instr} (hi : i.row ∈ registerRows) (V : Vector Byte 16) :
    Effect s i { s with V := V, pc := s.pc + 2 }
  | random (x : Nibble) (kk : Byte) (V : Vector Byte 16) :
    Effect s (.rnd x kk) { s with V := V, pc := s.pc + 2, draws := s.draws + 1 }
  | clear (D : Vector (BitVec 64) 32) : Effect s .cls { s with Disp := D, pc := s.pc + 2 }
  | draw (x y n : Nibble) (V : Vector Byte 16) (D : Vector (BitVec 64) 32) :
    Effect s (.drw x y n) { s with V := V, Disp := D, pc := s.pc + 2 }
  | skip {i : Instr} (hi : i.row ∈ skipRows) (c : Bool) : Effect s i (s.advance.skipIf c)
  | jump (nnn : Addr) : Effect s (.jp nnn) (s.writePc (zextAddr nnn))
  | jumpV0 (nnn : Addr) :
    Effect s (.jpV0 nnn) (s.writePc (zextAddr nnn + zextByte (s.readV 0)))
  | call (nnn : Addr) (hsp : s.sp.val < 16) :
    Effect s (.call nnn) ((s.advance.push (s.pc + 2)).writePc (zextAddr nnn))
  | ret (hsp : s.sp.val ≠ 0) : Effect s .ret s.popPc
  | index {i : Instr} (hi : i.row ∈ [Row.ldI, .addI, .ldF]) (w : Word) :
    Effect s i { s with I := w, pc := s.pc + 2 }
  | delayTimer (x : Nibble) (b : Byte) : Effect s (.setDT x) { s with DT := b, pc := s.pc + 2 }
  | soundTimer (x : Nibble) (b : Byte) : Effect s (.setST x) { s with ST := b, pc := s.pc + 2 }
  | wait (x : Nibble) :
    Effect s (.waitKey x) { s with waiting := true, waitReg := x, pc := s.pc + 2 }
  | stores {i : Instr} (hi : i.row ∈ [Row.bcd, .storeRegs]) (m : Memory)
      (hm : s.Mem.wf = true → m.wf = true) :
    Effect s i { s with Mem := m, pc := s.pc + 2 }

/-- The effect of an answer is an effect of the instruction. -/
theorem Effect.of_next {s t u : State} {i : Instr} (hu : Effect s i u)
    (h : (.next u : Result) = .next t) : Effect s i t := by
  cases h; exact hu

/-- A drawing sets registers and display, and advances. -/
theorem execDrw_effect {s t : State} (x y n : Nibble) (h : execDrw x y n s = .next t) :
    Effect s (.drw x y n) t := by
  refine Effect.of_next ?_ h
  rw [drawRows_frame]
  exact .draw x y n _ _

/-- A block load sets registers, and advances. -/
theorem execLoadRegs_effect {s t : State} (x : Nibble) (h : execLoadRegs x s = .next t) :
    Effect s (.loadRegs x) t := by
  refine Effect.of_next ?_ h
  rw [State.loadBlock_frame]
  exact .registers (by simp [Instr.row, registerRows]) _

/-- A block store sets memory in canonical form, and advances. -/
theorem execStoreRegs_effect {s t : State} (x : Nibble) (h : execStoreRegs x s = .next t) :
    Effect s (.storeRegs x) t := by
  refine Effect.of_next ?_ h
  rw [State.storeBlock_frame]
  exact .stores (by simp [Instr.row]) _ fun hw => s.advance.storeBlock_wf _ hw

/-- Three stored digits leave memory in canonical form. -/
theorem execBcd_effect {s t : State} (x : Nibble) (h : execBcd x s = .next t) :
    Effect s (.bcd x) t :=
  (Effect.stores (by simp [Instr.row]) _ fun hw =>
    State.memWrite_wf _ _ (State.memWrite_wf _ _ (State.memWrite_wf _ _ hw))).of_next h

/-- A call that answers a next state had a free stack entry. -/
theorem execCall_effect {s t : State} (nnn : Addr) (h : execCall nnn s = .next t) :
    Effect s (.call nnn) t := by
  unfold execCall at h
  split at h
  · cases h
  · exact (Effect.call nnn (by omega)).of_next h

/-- A return that answers a next state had a live stack entry. -/
theorem execRet_effect {s t : State} (h : execRet s = .next t) : Effect s .ret t := by
  unfold execRet at h
  split at h
  · cases h
  · next hsp => exact (Effect.ret hsp).of_next h

/-- What an instruction can do: every next state it answers is one of its effects. -/
theorem exec_effect {s t : State} {i : Instr} (h : exec i s = .next t) : Effect s i t := by
  cases i with
  | cls => exact (Effect.clear _).of_next h
  | ret => exact execRet_effect h
  | jp nnn => exact (Effect.jump nnn).of_next h
  | call nnn => exact execCall_effect nnn h
  | jpV0 nnn => exact (Effect.jumpV0 nnn).of_next h
  | seImm | sneImm | seReg | sneReg | skp | sknp =>
    exact (Effect.skip (by simp [Instr.row, skipRows]) _).of_next h
  | ldImm | addImm | ldReg | orReg | andReg | xorReg | addReg | subReg | shr | subnReg | shl | getDT =>
    exact (Effect.registers (by simp [Instr.row, registerRows]) _).of_next h
  | loadRegs x => exact execLoadRegs_effect x h
  | rnd x kk => exact (Effect.random x kk _).of_next h
  | drw x y n => exact execDrw_effect x y n h
  | ldI | addI | ldF => exact (Effect.index (by simp [Instr.row]) _).of_next h
  | setDT x => exact (Effect.delayTimer x _).of_next h
  | setST x => exact (Effect.soundTimer x _).of_next h
  | waitKey x => exact (Effect.wait x).of_next h
  | bcd x => exact execBcd_effect x h
  | storeRegs x => exact execStoreRegs_effect x h

/-- What a step can do: nothing while waiting; else, in the fetch range, the advance of an unknown word or
the effect of the decoded instruction. -/
theorem step_cases {s t : State} (h : step s = .next t) :
    (s.waiting = true ∧ t = s) ∨
    (s.waiting = false ∧ s.fetchable = true ∧
      (t = s.advance ∨ ∃ i, decodeWord s.fetch = .instr i ∧ Effect s i t)) := by
  obtain hw | ⟨hw, hf, hrun⟩ := cycle_eq_next h
  · exact .inl hw
  · refine .inr ⟨hw, hf, ?_⟩
    cases hd : decodeWord s.fetch with
    | unknown w => rw [hd] at hrun; cases hrun; exact .inl rfl
    | instr i => rw [hd] at hrun; exact .inr ⟨i, rfl, exec_effect hrun⟩

end Sys2Proof.Machine
end

section
/-! SUPPORT. Which state each instruction changes, and where it leaves `pc` (10_state.md R22 to R38). -/

namespace Sys2Proof.Machine

/-- A skip leaves `pc` two or four bytes on. -/
theorem State.advance_skipIf_pc (s : State) (c : Bool) :
    (s.advance.skipIf c).pc = s.pc + 2 ∨ (s.advance.skipIf c).pc = s.pc + 4 := by
  cases c
  · exact .inl rfl
  · exact .inr (BitVec.add_assoc s.pc 2 2)

theorem zextAddr_toNat (nnn : Addr) : (zextAddr nnn).toNat = nnn.toNat := by
  simp [zextAddr]
  omega

/-- `nnn + V[0]` needs no 17th bit. -/
theorem zextAddr_add_zextByte_toNat (nnn : Addr) (b : Byte) :
    (zextAddr nnn + zextByte b).toNat = nnn.toNat + b.toNat := by
  simp [zextAddr, zextByte]
  omega

/-- The entry a pop reads is the newest live one. -/
theorem State.top_eq_getElem (s : State) (k : Fin 16) (hk : k.val + 1 = s.sp.val) :
    s.top = s.Stack[k] := by
  simp [State.top, ← hk]

/-- Settles O46, by the effects of an instruction: each sets the fields of its row and keeps the others. -/
theorem onlyTheNamedRowsChangeEachState : Obligations.OnlyTheNamedRowsChangeEachState := by
  intro s t i h
  cases exec_effect h with
  | registers hi V =>
    simp only [registerRows, List.mem_cons, List.not_mem_nil, or_false] at hi
    simp
    tauto
  | random | clear | draw | jump | jumpV0 | call | ret | delayTimer | soundTimer | wait =>
    simp [Instr.row]
  | skip hi c => simp
  | index hi w => simpa using fun _ => hi
  | stores hi m hm => simpa using fun _ => hi

/-- Settles O47, by the effects of an instruction: only those of the skips and the control rows leave `pc`
anywhere but two bytes on. -/
theorem programCounterAfterEachInstruction : Obligations.ProgramCounterAfterEachInstruction := by
  intro s t i h
  cases exec_effect h with
  | registers hi V => cases i <;> simp_all [registerRows, Instr.row]
  | index hi w | stores hi m hm => cases i <;> simp_all [Instr.row]
  | random | clear | draw | delayTimer | soundTimer | wait => rfl
  | skip hi c =>
    cases i with
    | seImm | sneImm | seReg | sneReg | skp | sknp => exact s.advance_skipIf_pc c
    | _ => simp [skipRows, Instr.row] at hi
  | jump nnn | call nnn => exact zextAddr_toNat nnn
  | jumpV0 nnn => exact zextAddr_add_zextByte_toNat nnn _
  | ret hsp => exact s.top_eq_getElem

end Sys2Proof.Machine
end

section
/-! SUPPORT. The invariant of 10_state.md R47 under steps and under the host's transactions. -/

namespace Sys2Proof.Machine

/-- Settles O42: nothing is listed in memory, and no stack entry is live. -/
theorem resetMeetsTheInvariant : Obligations.ResetMeetsTheInvariant :=
  ⟨Memory.wf_nil, by decide, fun _ hk => absurd hk (Nat.not_lt_zero _)⟩

/-- The invariant of a state with the same stack. -/
theorem Inv.of_sameStack {s t : State} (h : Inv s) (hm : t.Mem.wf = true) (hpc : t.pc.toNat ≤ 0x10FE)
    (hsp : t.sp = s.sp) (hst : t.Stack = s.Stack) : Inv t :=
  ⟨hm, hpc, by rw [hsp, hst]; exact h.stackLive⟩

/-- From the fetch range the address of the following instruction is 0x0202 to 0x1000. -/
theorem State.pc_add_two_bounds {s : State} (hf : s.fetchable = true) :
    0x0202 ≤ (s.pc + 2).toNat ∧ (s.pc + 2).toNat ≤ 0x1000 := by
  rw [State.fetchable_iff] at hf
  simp only [BitVec.toNat_add]
  simp
  omega

/-- A call from the fetch range pushes an address in the bounds of a live entry. -/
theorem Inv.push {s : State} {w : Word} (h : Inv s) (hsp : s.sp.val < 16)
    (hw : 0x0202 ≤ w.toNat ∧ w.toNat ≤ 0x1000) : Inv (s.push w) := by
  obtain ⟨hsp', hst⟩ := s.push_of_lt w hsp
  refine ⟨by simpa using h.memWf, by simpa using h.pcBound, fun k hk => ?_⟩
  simp only [hst, Vector.getElem_set]
  split
  · exact hw
  · exact h.stackLive k (by omega)

/-- A return keeps the invariant: it takes a live entry, and the entries below it stay live. -/
theorem Inv.popPc {s : State} (h : Inv s) (hsp : s.sp.val ≠ 0) : Inv s.popPc := by
  have hlt := s.sp.isLt
  have htop := h.stackLive ⟨s.sp.val - 1, by omega⟩ (by simp; omega)
  refine ⟨h.memWf, ?_, fun k hk => h.stackLive k (by simp at hk; omega)⟩
  exact Nat.le_trans htop.2 (by decide)

/-- The invariant with `pc` put within its bound. -/
theorem Inv.writePc {s : State} {w : Word} (h : Inv s) (hw : w.toNat ≤ 0x10FE) : Inv (s.writePc w) :=
  ⟨h.memWf, hw, h.stackLive⟩

/-- A skip from at most 0x1000 keeps the invariant. -/
theorem Inv.skipIf {s : State} (h : Inv s) (hpc : s.pc.toNat ≤ 0x1000) (c : Bool) :
    Inv (s.skipIf c) := by
  cases c
  · exact h
  · refine h.writePc ?_
    rw [BitVec.toNat_add]
    simp
    omega

/-- The advance from the fetch range. -/
theorem Inv.advance {s : State} (h : Inv s) (hf : s.fetchable = true) : Inv s.advance :=
  h.writePc (Nat.le_trans (State.pc_add_two_bounds hf).2 (by decide))

/-- Every effect of an instruction that was fetched in range keeps the invariant. -/
theorem Effect.inv {s t : State} {i : Instr} (h : Effect s i t) (hf : s.fetchable = true)
    (hs : Inv s) : Inv t := by
  have ha : Inv s.advance := hs.advance hf
  cases h with
  | registers | random | clear | draw | index | delayTimer | soundTimer | wait =>
    exact ha.of_sameStack hs.memWf ha.pcBound rfl rfl
  | stores hi m hm => exact ha.of_sameStack (hm hs.memWf) ha.pcBound rfl rfl
  | skip hi c => exact ha.skipIf (State.pc_add_two_bounds hf).2 c
  | jump nnn => exact hs.writePc (by rw [zextAddr_toNat]; omega)
  | jumpV0 nnn => exact hs.writePc (by rw [zextAddr_add_zextByte_toNat]; omega)
  | call nnn hsp =>
    exact (ha.push hsp (State.pc_add_two_bounds hf)).writePc (by rw [zextAddr_toNat]; omega)
  | ret hsp => exact hs.popPc hsp

/-- Settles O43: a step waits, advances past an unknown word, or has the effect of an instruction. -/
theorem stepKeepsTheInvariant : Obligations.StepKeepsTheInvariant := by
  intro s t hs h
  obtain ⟨-, rfl⟩ | ⟨-, hf, rfl | ⟨i, -, he⟩⟩ := step_cases h
  · exact hs
  · exact hs.advance hf
  · exact he.inv hf hs

/-! The host's transactions -/

/-- Stored bytes change memory only. -/
theorem State.storeBytes_frame (s : State) (a : Nat) (bytes : List Byte) :
    s.storeBytes a bytes = { s with Mem := (s.storeBytes a bytes).Mem } := by
  induction bytes generalizing s a with
  | nil => rfl
  | cons b bs ih => rw [State.storeBytes, ih]; rfl

/-- Stored bytes keep the canonical form. -/
theorem State.storeBytes_wf {s : State} (a : Nat) (bytes : List Byte) (h : s.Mem.wf = true) :
    (s.storeBytes a bytes).Mem.wf = true := by
  induction bytes generalizing s a with
  | nil => exact h
  | cons b bs ih => exact ih (a + 1) (State.memWrite_wf _ _ h)

/-- A load stores its bytes or, being too large, changes nothing. -/
theorem Inv.load {s : State} (h : Inv s) (bytes : List Byte) : Inv (load bytes s).2 := by
  unfold Machine.load
  split
  · exact h
  · rw [State.storeBytes_frame]
    exact h.of_sameStack (State.storeBytes_wf _ _ h.memWf) h.pcBound rfl rfl

/-- A press captured by a key wait writes a register, and no `set_key` moves `pc` or the stack. -/
theorem Inv.setKey {s : State} (h : Inv s) (k : Nibble) (down : Bool) : Inv (setKey k down s) := by
  unfold Machine.setKey
  split <;> exact h.of_sameStack h.memWf h.pcBound rfl rfl

/-- What a step transaction leaves: the step's next state, or the state as it was. -/
theorem stepTxn_state (s : State) : (stepTxn s).2 = s ∨ step s = .next (stepTxn s).2 := by
  cases h : step s with
  | next t =>
    cases he : s.event with
    | none => exact .inr (by rw [stepTxn_ok h he])
    | some w => exact .inr (by rw [stepTxn_unknown h he])
  | fault f => exact .inl (by rw [stepTxn_fault h])
  | refused r => exact .inl (by simp only [stepTxn, h])

/-- A step transaction keeps what every step keeps. -/
theorem stepTxn_keeps {P : State → Prop} {s : State} (hP : P s) (h : ∀ t, step s = .next t → P t) :
    P (stepTxn s).2 := by
  obtain hs | hs := stepTxn_state s
  · rwa [hs]
  · exact h _ hs

/-- Every transaction keeps the invariant. -/
theorem Inv.transact {s : State} (h : Inv s) (t : Transaction) : Inv (transact t s).2 := by
  cases t with
  | reset => exact resetMeetsTheInvariant.of_sameStack Memory.wf_nil resetMeetsTheInvariant.pcBound rfl rfl
  | load bytes => exact h.load bytes
  | step => exact stepTxn_keeps h fun t => stepKeepsTheInvariant s t h
  | tick => exact h.of_sameStack h.memWf h.pcBound rfl rfl
  | setKey k down => exact h.setKey k down

/-- What every transaction keeps, every run keeps. -/
theorem runTransactions_keeps {P : State → Prop} (h : ∀ t s, P s → P (transact t s).2)
    (ts : List Transaction) {s : State} (hs : P s) : P (runTransactions ts s).2 := by
  induction ts generalizing s with
  | nil => exact hs
  | cons t ts ih => exact ih (h t s hs)

/-- Settles O44, transaction by transaction. -/
theorem transactionsKeepTheInvariant : Obligations.TransactionsKeepTheInvariant := fun ts _ =>
  runTransactions_keeps (fun t _ hs => hs.transact t) ts

/-! The key wait -/

/-- The key-wait clause reads the wait, `pc` and memory only. -/
theorem WaitInv.congr {s t : State} (h : WaitInv s) (hw : t.waiting = s.waiting)
    (hr : t.waitReg = s.waitReg) (hpc : t.pc = s.pc) (hm : t.Mem = s.Mem) : WaitInv t := by
  intro ht
  simp only [State.fetch16, State.memRead, hpc, hr, hm]
  exact h (hw ▸ ht)

theorem WaitInv.of_notWaiting {s : State} (h : s.waiting = false) : WaitInv s := fun hw => by
  simp [h] at hw

/-- A fetched `Fx0A` begins a wait that points back at it; no other instruction begins one. -/
theorem Effect.waitInv {s t : State} {i : Instr} (h : Effect s i t) (hw : s.waiting = false)
    (hf : s.fetchable = true) (hd : decodeWord s.fetch = .instr i) : WaitInv t := by
  cases h with
  | wait x =>
    obtain ⟨hlo, hhi⟩ := State.pc_add_two_bounds hf
    have hpc : s.pc + 2 - 2 = s.pc := BitVec.add_sub_cancel s.pc 2
    refine fun _ => ⟨hlo, hhi, ?_⟩
    change decodeWord (s.fetch16 ((s.pc + 2 - 2).setWidth 12)) = _
    rw [hpc]
    exact hd
  | _ => exact .of_notWaiting (by simpa using hw)

/-- Every step keeps the key-wait clause. -/
theorem WaitInv.step {s t : State} (hs : WaitInv s) (h : step s = .next t) : WaitInv t := by
  obtain ⟨-, rfl⟩ | ⟨hw, hf, rfl | ⟨i, hd, he⟩⟩ := step_cases h
  · exact hs
  · exact .of_notWaiting hw
  · exact he.waitInv hw hf hd

/-- A captured press ends the wait; any other `set_key` writes the key level alone. -/
theorem WaitInv.setKey {s : State} (h : WaitInv s) (k : Nibble) (down : Bool) :
    WaitInv (setKey k down s) := by
  unfold Machine.setKey
  split
  · exact .of_notWaiting rfl
  · exact h.congr rfl rfl rfl rfl

/-- Settles O45, transaction by transaction. -/
theorem keyWaitPointsBackAtItsInstruction : Obligations.KeyWaitPointsBackAtItsInstruction := by
  refine ⟨.of_notWaiting rfl, fun s t hload h => ?_⟩
  cases t with
  | reset => exact .of_notWaiting rfl
  | load bytes => exact absurd rfl (hload bytes)
  | step => exact stepTxn_keeps h fun _ => h.step
  | tick => exact h.congr rfl rfl rfl rfl
  | setKey k down => exact h.setKey k down

end Sys2Proof.Machine
end

section
/-! SUPPORT. Two runs: what a step does not read (10_state.md R31, R35). -/

namespace Sys2Proof.Machine

/-- Two answers end alike: the same fault, or next states that are related. -/
def Alike (R : State → State → Prop) (o o' : Result) : Prop :=
  (∀ f, o = .fault f → o' = .fault f) ∧ (∀ t, o = .next t → ∃ t', o' = .next t' ∧ R t t')

theorem Alike.next {R : State → State → Prop} {t t' : State} (h : R t t') :
    Alike R (.next t) (.next t') := by
  refine ⟨fun f hf => ?_, fun u hu => ?_⟩
  · cases hf
  · cases hu
    exact ⟨t', rfl, h⟩

theorem Alike.raise {R : State → State → Prop} (f : Fault) :
    Alike R (Machine.raise f) (Machine.raise f) := by
  refine ⟨fun g hg => hg, fun u hu => ?_⟩
  cases hu

/-- Two steps that see the same wait, `pc` and memory end alike when what they run does. -/
theorem step_alike {R : State → State → Prop} {s s' : State} (hw : s'.waiting = s.waiting)
    (hpc : s'.pc = s.pc) (hm : s'.Mem = s.Mem) (hs : R s s') (ha : R s.advance s'.advance)
    (he : ∀ i, decodeWord s.fetch = .instr i → Alike R (exec i s) (exec i s')) :
    Alike R (step s) (step s') := by
  have hfetchable : s'.fetchable = s.fetchable := by simp only [State.fetchable, hpc]
  have hfetch : s'.fetch = s.fetch := by
    simp only [State.fetch, State.fetch16, State.fetchAddr, State.memRead, hpc, hm]
  unfold step cycle
  rw [hw, hfetchable, hfetch]
  split
  · exact .next hs
  · split
    · cases hd : decodeWord s.fetch with
      | instr i => exact he i hd
      | unknown w => exact .next ha
    · exact .raise _

/-- The state with other values in the three fields that most instructions neither read nor write. -/
def State.setUnread (s : State) (st : Vector Word 16) (v : Byte) (d : Nat) : State :=
  { s with Stack := st, ST := v, draws := d }

/-- The rows that read or write one of these three fields. -/
def unreadRows : List Row := [.call, .ret, .setST, .rnd]

section
variable (s : State) (st : Vector Word 16) (v : Byte) (d : Nat)

theorem State.skipIf_setUnread (c : Bool) :
    (s.setUnread st v d).skipIf c = (s.skipIf c).setUnread st v d := by
  cases c <;> rfl

theorem State.storeBlock_setUnread (n : Nat) :
    (s.setUnread st v d).storeBlock n = (s.storeBlock n).setUnread st v d := by
  induction n with
  | zero => rfl
  | succ n ih => rw [storeBlock_succ, storeBlock_succ, ih]; rfl

theorem State.loadBlock_setUnread (n : Nat) :
    (s.setUnread st v d).loadBlock n = (s.loadBlock n).setUnread st v d := by
  induction n with
  | zero => rfl
  | succ n ih => rw [loadBlock_succ, loadBlock_succ, ih]; rfl

theorem drawColumns_setUnread (x0 y0 b : Byte) (r m : Nat) (e : State × Bool) :
    drawColumns x0 y0 b r m (e.1.setUnread st v d, e.2) =
      ((drawColumns x0 y0 b r m e).1.setUnread st v d, (drawColumns x0 y0 b r m e).2) := by
  induction m with
  | zero => rfl
  | succ m ih =>
    rw [drawColumns_succ, drawColumns_succ, ih, drawPixel, drawPixel]
    split <;> rfl

theorem drawRows_setUnread (x0 y0 : Byte) (n : Nat) :
    drawRows x0 y0 n (s.setUnread st v d) =
      ((drawRows x0 y0 n s).1.setUnread st v d, (drawRows x0 y0 n s).2) := by
  induction n with
  | zero => rfl
  | succ n ih =>
    rw [drawRows_succ, drawRows_succ, drawRow_eq, drawRow_eq, ih]
    exact drawColumns_setUnread ..

/-- An instruction of another row answers a next state, which carries the three fields along. -/
theorem exec_setUnread {i : Instr} (hi : i.row ∉ unreadRows) :
    ∃ t, exec i s = .next t ∧ exec i (s.setUnread st v d) = .next (t.setUnread st v d) := by
  cases i with
  | call | ret | setST | rnd => simp [Instr.row, unreadRows] at hi
  | seImm | sneImm | seReg | sneReg | skp | sknp =>
    exact ⟨_, rfl, congrArg _ (s.advance.skipIf_setUnread st v d _)⟩
  | storeRegs x => exact ⟨_, rfl, congrArg _ (s.advance.storeBlock_setUnread st v d _)⟩
  | loadRegs x => exact ⟨_, rfl, congrArg _ (s.advance.loadBlock_setUnread st v d _)⟩
  | drw x y n =>
    exact ⟨_, rfl, congrArg (fun e : State × Bool => (.next (e.1.writeVF (flagByte e.2)) : Result))
      (drawRows_setUnread s.advance st v d _ _ _)⟩
  | _ => exact ⟨_, rfl, rfl⟩

end

/-- An instruction of another row keeps the three fields, and `sp`. -/
theorem Effect.keeps_unread {s t : State} {i : Instr} (h : Effect s i t) (hi : i.row ∉ unreadRows) :
    t.Stack = s.Stack ∧ t.sp = s.sp ∧ t.ST = s.ST ∧ t.draws = s.draws := by
  cases h with
  | call | ret | soundTimer | random => simp [Instr.row, unreadRows] at hi
  | _ => simp

/-! Call and return, by the stack check -/

theorem exec_call_of_eq {s : State} (nnn : Addr) (h : s.sp.val = 16) :
    exec (.call nnn) s = raise .stackOverflow := if_pos h

theorem exec_call_of_lt {s : State} (nnn : Addr) (h : s.sp.val < 16) :
    exec (.call nnn) s = .next { s with
      Stack := s.Stack.set s.sp.val (s.pc + 2) h
      sp := ⟨s.sp.val + 1, by omega⟩
      pc := zextAddr nnn } := by
  have hpush : s.advance.push (s.pc + 2) = { s.advance with
      Stack := s.Stack.set s.sp.val (s.pc + 2) h, sp := ⟨s.sp.val + 1, by omega⟩ } := dif_pos h
  calc exec (.call nnn) s
      = .next ((s.advance.push (s.pc + 2)).writePc (zextAddr nnn)) := if_neg (by omega)
    _ = _ := by rw [hpush]; rfl

theorem exec_ret_of_eq {s : State} (h : s.sp.val = 0) : exec .ret s = raise .stackUnderflow := if_pos h

theorem exec_ret_of_ne {s : State} (h : s.sp.val ≠ 0) : exec .ret s = .next s.popPc := if_neg h

/-! The sound timer -/

/-- The second state differs from the first in `ST` alone. -/
def DiffersInST (t t' : State) : Prop := ∃ w, t' = { t with ST := w }

/-- An instruction that has nothing to do with `ST` carries it along. -/
theorem exec_alike_ST_of_row (s : State) (v : Byte) {i : Instr} (hi : i.row ∉ unreadRows) :
    Alike DiffersInST (exec i s) (exec i { s with ST := v }) := by
  obtain ⟨t, ht, ht'⟩ := exec_setUnread s s.Stack v s.draws hi
  obtain ⟨hst, -, -, hd⟩ := (exec_effect ht).keeps_unread hi
  rw [ht]
  refine ht' ▸ .next ⟨v, ?_⟩
  rw [← hst, ← hd]
  rfl

/-- No instruction reads `ST`; `Fx18` alone sets it, from a register. -/
theorem exec_alike_ST (s : State) (v : Byte) (i : Instr) :
    Alike DiffersInST (exec i s) (exec i { s with ST := v }) := by
  cases i with
  | call nnn =>
    obtain h | h : s.sp.val = 16 ∨ s.sp.val < 16 := by omega
    · rw [exec_call_of_eq nnn h, exec_call_of_eq nnn (s := { s with ST := v }) h]
      exact .raise _
    · rw [exec_call_of_lt nnn h, exec_call_of_lt nnn (s := { s with ST := v }) h]
      exact .next ⟨v, rfl⟩
  | ret =>
    by_cases h : s.sp.val = 0
    · rw [exec_ret_of_eq h, exec_ret_of_eq (s := { s with ST := v }) h]
      exact .raise _
    · rw [exec_ret_of_ne h, exec_ret_of_ne (s := { s with ST := v }) h]
      exact .next ⟨v, rfl⟩
  | setST x => exact .next ⟨_, rfl⟩
  | rnd x kk => exact .next ⟨v, rfl⟩
  | _ => exact exec_alike_ST_of_row s v (by simp [Instr.row, unreadRows])

/-- Settles O48: the step sees the same wait, `pc` and memory, and every instruction carries `ST` along or
sets it. -/
theorem soundTimerIsReadByNoInstruction : Obligations.SoundTimerIsReadByNoInstruction := by
  intro s v
  obtain ⟨hfault, hnext⟩ : Alike DiffersInST (step s) (step { s with ST := v }) :=
    step_alike rfl rfl rfl ⟨v, rfl⟩ ⟨v, rfl⟩ fun i _ => exec_alike_ST s v i
  refine ⟨hfault, fun t ht => ?_⟩
  obtain ⟨_, ht', w, rfl⟩ := hnext t ht
  exact ⟨w, ht'⟩

/-! Dead stack entries -/

/-- The second state differs from the first in dead stack entries alone. -/
def DiffersInDeadEntries (t t' : State) : Prop :=
  ∃ st : Vector Word 16, t' = { t with Stack := st } ∧ ∀ k : Fin 16, k.val < t.sp.val → st[k] = t.Stack[k]

section
variable {s : State} {st : Vector Word 16}
  (hst : ∀ k : Fin 16, k.val < s.sp.val → st[k] = s.Stack[k])
include hst

/-- A call writes the first dead entry and makes it live. -/
theorem execCall_alike_dead (nnn : Addr) :
    Alike DiffersInDeadEntries (exec (.call nnn) s) (exec (.call nnn) { s with Stack := st }) := by
  obtain h | h : s.sp.val = 16 ∨ s.sp.val < 16 := by omega
  · rw [exec_call_of_eq nnn h, exec_call_of_eq nnn (s := { s with Stack := st }) h]
    exact .raise _
  · rw [exec_call_of_lt nnn h, exec_call_of_lt nnn (s := { s with Stack := st }) h]
    refine .next ⟨st.set s.sp.val (s.pc + 2) h, rfl, fun k hk => ?_⟩
    by_cases hk' : k.val = s.sp.val
    · simp [hk']
    · have := hst k (by simp at hk; omega)
      simpa [Vector.getElem_set, Ne.symm hk'] using this

/-- A return reads the newest live entry. -/
theorem execRet_alike_dead :
    Alike DiffersInDeadEntries (exec .ret s) (exec .ret { s with Stack := st }) := by
  by_cases h : s.sp.val = 0
  · rw [exec_ret_of_eq h, exec_ret_of_eq (s := { s with Stack := st }) h]
    exact .raise _
  · rw [exec_ret_of_ne h, exec_ret_of_ne (s := { s with Stack := st }) h]
    have hlt := s.sp.isLt
    have htop : ({ s with Stack := st } : State).top = s.top :=
      hst ⟨s.sp.val - 1, by omega⟩ (by simp; omega)
    refine .next ⟨st, ?_, fun k hk => hst k (by simp at hk; omega)⟩
    rw [State.popPc, htop]
    rfl

/-- An instruction that has nothing to do with the stack carries its entries along. -/
theorem exec_alike_dead_of_row {i : Instr} (hi : i.row ∉ unreadRows) :
    Alike DiffersInDeadEntries (exec i s) (exec i { s with Stack := st }) := by
  obtain ⟨t, ht, ht'⟩ := exec_setUnread s st s.ST s.draws hi
  obtain ⟨hst', hsp, hv, hd⟩ := (exec_effect ht).keeps_unread hi
  rw [ht]
  refine ht' ▸ .next ⟨st, ?_, by rwa [hsp, hst']⟩
  rw [← hv, ← hd]
  rfl

/-- No instruction tells stacks apart that agree on the live entries. -/
theorem exec_alike_dead (i : Instr) :
    Alike DiffersInDeadEntries (exec i s) (exec i { s with Stack := st }) := by
  cases i with
  | call nnn => exact execCall_alike_dead hst nnn
  | ret => exact execRet_alike_dead hst
  | setST x => exact .next ⟨st, rfl, hst⟩
  | rnd x kk => exact .next ⟨st, rfl, hst⟩
  | _ => exact exec_alike_dead_of_row hst (by simp [Instr.row, unreadRows])

end

/-- Settles O49: a call writes a dead entry before it is live, a return reads a live one, and no other
instruction reads or writes the stack. -/
theorem deadStackEntriesAreNotObservable : Obligations.DeadStackEntriesAreNotObservable := by
  intro s st hst
  obtain ⟨hfault, hnext⟩ : Alike DiffersInDeadEntries (step s) (step { s with Stack := st }) :=
    step_alike rfl rfl rfl ⟨st, rfl, hst⟩ ⟨st, rfl, hst⟩ fun i _ => exec_alike_dead hst i
  refine ⟨hfault, fun t ht => ?_⟩
  obtain ⟨_, ht', st', rfl, hlive⟩ := hnext t ht
  exact ⟨st', ht', hlive⟩

end Sys2Proof.Machine
end

section
/-! SUPPORT. The reset values (10_state.md R45), and that memory in canonical form is its bytes (log
entry 10). -/

namespace Sys2Proof.Machine

/-- Below the form's lower bound nothing is listed. -/
theorem Memory.read_of_lt {lo a : Nat} {m : Memory} (h : wfFrom lo m = true) (ha : a < lo) :
    m.read a = background a := by
  induction m generalizing lo with
  | nil => rfl
  | cons e m ih =>
    obtain ⟨c, v⟩ := e
    obtain ⟨hlo, -, -, hm⟩ := (wfFrom_cons lo c v m).mp h
    rw [read, if_neg (by omega), ih hm (by omega)]

@[simp] theorem Memory.read_cons_same (m : Memory) (c : Nat) (v : Byte) :
    Memory.read ((c, v) :: m) c = v := if_pos rfl

theorem Memory.read_cons_of_ne (m : Memory) {a c : Nat} (v : Byte) (h : a ≠ c) :
    Memory.read ((c, v) :: m) a = m.read a := if_neg h

/-- A listed address reads otherwise than one below the lower bound of a form. -/
theorem Memory.read_cons_ne_read {lo c : Nat} {v : Byte} {m m' : Memory}
    (h : wfFrom lo ((c, v) :: m) = true) (h' : wfFrom (c + 1) m' = true) :
    Memory.read ((c, v) :: m) c ≠ m'.read c := by
  obtain ⟨-, -, hv, -⟩ := (wfFrom_cons lo c v m).mp h
  rwa [read_cons_same, read_of_lt h' (by omega)]

/-- Two canonical memories that read alike list the same bytes. -/
theorem Memory.eq_of_read_eq {lo : Nat} {m m' : Memory} (h : wfFrom lo m = true)
    (h' : wfFrom lo m' = true) (hr : ∀ a, a < memBytes → m.read a = m'.read a) : m = m' := by
  induction m generalizing lo m' with
  | nil =>
    cases m' with
    | nil => rfl
    | cons e m' =>
      obtain ⟨d, w⟩ := e
      obtain ⟨-, hd, -, -⟩ := (wfFrom_cons lo d w m').mp h'
      exact absurd (hr d hd).symm (read_cons_ne_read h' rfl)
  | cons e m ih =>
    obtain ⟨c, v⟩ := e
    obtain ⟨hlo, hc, hv, hm⟩ := (wfFrom_cons lo c v m).mp h
    cases m' with
    | nil => exact absurd (hr c hc) (read_cons_ne_read h rfl)
    | cons e m' =>
      obtain ⟨d, w⟩ := e
      obtain ⟨hlo', hd, hw, hm'⟩ := (wfFrom_cons lo d w m').mp h'
      obtain hlt | rfl | hlt := Nat.lt_trichotomy c d
      · exact absurd (hr c hc) (read_cons_ne_read h ((wfFrom_cons _ _ _ _).mpr ⟨hlt, hd, hw, hm'⟩))
      · have hvw : v = w := by simpa using hr c hc
        subst hvw
        refine congrArg _ (ih hm hm' fun a ha => ?_)
        by_cases hac : a = c
        · rw [hac, read_of_lt hm (by omega), read_of_lt hm' (by omega)]
        · simpa [read_cons_of_ne _ v hac] using hr a ha
      · exact absurd (hr d hd).symm
          (read_cons_ne_read h' ((wfFrom_cons _ _ _ _).mpr ⟨hlt, hc, hv, hm⟩))

/-- Settles O51: both lists are in order of address and list exactly the bytes that differ from the reset
contents. -/
theorem canonicalMemoryIsItsBytes : Obligations.CanonicalMemoryIsItsBytes :=
  fun _ _ h h' hr => Memory.eq_of_read_eq h h' hr

/-- The reset contents, with the font's range as two bounds. -/
theorem resetByte_eq (font : Vector Byte 80) (a : Nat) :
    resetByte font a = if h : 0x050 ≤ a ∧ a ≤ 0x09F then font[a - 0x050] else 0 := by
  unfold resetByte fontBase fontBytes
  by_cases h : 0x050 ≤ a ∧ a ≤ 0x09F
  · rw [dif_pos h, dif_pos (by omega), if_pos h.1]
  · rw [dif_neg h]
    split
    · exact if_neg (by omega)
    · rfl

/-- The elements of the snapshot are pixels. -/
theorem State.mem_displaySnapshot {s : State} {b : Bool} (h : b ∈ s.displaySnapshot) :
    ∃ px py, b = s.pixel px py := by
  simp only [displaySnapshot, List.mem_flatMap, List.mem_map] at h
  obtain ⟨py, -, px, -, rfl⟩ := h
  exact ⟨px, py, rfl⟩

theorem reset_pixel (s : State) (px : Fin 64) (py : Fin 32) : (reset s).pixel px py = false := by
  simp [State.pixel, reset, State.reset]

/-- Settles O38, field by field of the reset table. -/
theorem resetGivesTheResetValues : Obligations.ResetGivesTheResetValues := by
  intro s
  refine ⟨reset s, rfl, fun x => ?_, rfl, rfl, rfl, fun k => ?_, rfl, rfl, reset_pixel s, fun k => ?_,
    rfl, rfl, fun a => resetByte_eq _ _, rfl, fun b hb => ?_⟩
  · simp [State.readV, reset, State.reset]
  · simp [reset, State.reset]
  · simp [State.keyDown, reset, State.reset]
  · obtain ⟨px, py, rfl⟩ := State.mem_displaySnapshot hb
    exact reset_pixel s px py

end Sys2Proof.Machine
end

section
/-! SUPPORT. Fetch and data addresses (20_memory.md): the fetched word as its two bytes, and the word that a
block store leaves for the next fetch. -/

namespace Sys2Proof.Machine

/-- Settles O23, by the policy of the configuration. -/
theorem dataAddressWraps : Obligations.DataAddressWraps := State.ea_toNat

/-- `pc` and the address after it, each as 12 bits, hold the bytes of the fetched word. -/
theorem State.fetch_eq (s : State) :
    s.fetch = s.memRead (BitVec.ofNat 12 s.pc.toNat) ++ s.memRead (BitVec.ofNat 12 (s.pc.toNat + 1)) := by
  rw [fetch, fetch16, fetchAddr, ← BitVec.ofNat_toNat, BitVec.ofNat_add]
  rfl

/-- Settles O8: the word is the two bytes appended, and 0x0FFE + 1 is still an address. -/
theorem fetchIsBigEndian : Obligations.FetchIsBigEndian := by
  rintro s ⟨-, hpc⟩
  refine ⟨?_, ?_, Nat.mod_eq_of_lt (by omega), Nat.mod_eq_of_lt (by omega)⟩
  · rw [State.fetch_eq, BitVec.extractLsb'_append_eq_left]
  · rw [State.fetch_eq, BitVec.extractLsb'_append_eq_right]

/-- A data address by its number. -/
theorem State.ea_eq_ofNat {s : State} {k a : Nat} (h : (s.I.toNat + k) % 4096 = a) :
    s.ea k = BitVec.ofNat 12 a := by
  rw [← h, ← ea_toNat, BitVec.ofNat_toNat, BitVec.setWidth_eq]

/-- Where `EA(k)` is `pc`, a block store of more than `k + 1` registers leaves `V[k]`, `V[k + 1]` as the word
to fetch. -/
theorem State.storeBlock_fetch {s : State} {n k : Nat} (hn : n ≤ 16) (hk : k + 1 < n)
    (hpc : s.pc.toNat ≤ 0x0FFE) (ha : (s.I.toNat + k) % 4096 = s.pc.toNat) :
    (s.storeBlock n).fetch = s.readV (blockReg k) ++ s.readV (blockReg (k + 1)) := by
  have hpc' : (s.storeBlock n).pc = s.pc := by rw [storeBlock_frame]
  rw [fetch_eq, hpc', ← ea_eq_ofNat ha, ← ea_eq_ofNat (s := s) (k := k + 1) (by omega),
    storeBlock_memRead s n k hn (by omega), storeBlock_memRead s n (k + 1) hn hk]

/-- Settles O13: the block store starts from the advanced `pc`, where the next step fetches. -/
theorem storedBytesAreFetchedNext : Obligations.StoredBytesAreFetchedNext := by
  intro s x k hk _ hpc ha
  have hadv : s.advance.pc.toNat = s.pc.toNat + 2 := by
    rw [State.advance_pc, BitVec.toNat_add]
    exact Nat.mod_eq_of_lt (by simp; omega)
  exact ⟨_, rfl, State.storeBlock_fetch (s := s.advance) (by omega) (by omega) (by omega)
    (ha.trans hadv.symm)⟩

end Sys2Proof.Machine
end

section
/-! SUPPORT. The fields of a word and the masks of the formats (30_encoding.md R91, R92, R96): a word is its
fields, and two words agree under a format's mask when they agree in the fields that select its rows. -/

namespace Sys2Proof

/-- Words are equal when their primary nibbles and their low twelve bits are. -/
theorem word_eq_iff {v w : Word} : v = w ↔ fieldOp v = fieldOp w ∧ fieldNNN v = fieldNNN w := by
  simp only [← BitVec.toNat_inj, fieldOp_toNat, fieldNNN_toNat]
  omega

/-- The low twelve bits are `x` and the low byte. -/
theorem fieldNNN_eq_iff {v w : Word} :
    fieldNNN v = fieldNNN w ↔ fieldX v = fieldX w ∧ fieldKK v = fieldKK w := by
  simp only [← BitVec.toNat_inj, fieldX_toNat, fieldKK_toNat, fieldNNN_toNat]
  omega

/-- The low byte is `y` and `n`. -/
theorem fieldKK_eq_iff {v w : Word} :
    fieldKK v = fieldKK w ↔ fieldY v = fieldY w ∧ fieldN v = fieldN w := by
  simp only [← BitVec.toNat_inj, fieldY_toNat, fieldN_toNat, fieldKK_toNat]
  omega

/-! A field of a bitwise and -/

theorem fieldOp_and (v w : Word) : fieldOp (v &&& w) = fieldOp v &&& fieldOp w := by
  simp [fieldOp, BitVec.extractLsb'_and]

theorem fieldX_and (v w : Word) : fieldX (v &&& w) = fieldX v &&& fieldX w := by
  simp [fieldX, BitVec.extractLsb'_and]

theorem fieldY_and (v w : Word) : fieldY (v &&& w) = fieldY v &&& fieldY w := by
  simp [fieldY, BitVec.extractLsb'_and]

theorem fieldN_and (v w : Word) : fieldN (v &&& w) = fieldN v &&& fieldN w := by
  simp [fieldN, BitVec.extractLsb'_and]

/-! The fields of a mask -/

theorem Format.fieldOp_mask (f : Format) : fieldOp f.mask = BitVec.allOnes 4 := by cases f <;> rfl

theorem Format.fieldX_mask (f : Format) :
    fieldX f.mask = if f = .FIX then BitVec.allOnes 4 else 0 := by cases f <;> rfl

theorem Format.fieldY_mask (f : Format) :
    fieldY f.mask = if f ∈ [FIX, X] then BitVec.allOnes 4 else 0 := by cases f <;> rfl

theorem Format.fieldN_mask (f : Format) :
    fieldN f.mask = if f ∈ [FIX, X, XY] then BitVec.allOnes 4 else 0 := by cases f <;> rfl

/-- Two words agree in the fields that, beside the primary nibble, are fixed in a row of the format. -/
def Format.SameSelector : Format → Word → Word → Prop
  | .FIX, v, w => fieldNNN v = fieldNNN w
  | .NNN, _, _ | .XKK, _, _ | .XYN, _, _ => True
  | .XY, v, w => fieldN v = fieldN w
  | .X, v, w => fieldKK v = fieldKK w

/-- What a mask compares, as fields. -/
theorem Format.and_mask_eq_iff (f : Format) (v w : Word) :
    v &&& f.mask = w &&& f.mask ↔ fieldOp v = fieldOp w ∧ f.SameSelector v w := by
  rw [word_eq_iff, fieldNNN_eq_iff, fieldKK_eq_iff]
  simp only [fieldOp_and, fieldX_and, fieldY_and, fieldN_and, fieldOp_mask, fieldX_mask, fieldY_mask,
    fieldN_mask]
  cases f <;> simp [-BitVec.reduceAllOnes, SameSelector, fieldNNN_eq_iff, fieldKK_eq_iff]

/-- A word matches a row of the opcode map when it has the row's primary nibble and selector. -/
theorem Row.match_iff {w : Word} {r : Row} :
    w &&& r.format.mask = r.code ↔
      fieldOp w = fieldOp r.code ∧ r.format.SameSelector w r.code := by
  rw [← Format.and_mask_eq_iff, Row.code_and_mask]

/-- A word as a number made of its four digits. -/
theorem toNat_eq_digits (w : Word) : w.toNat =
    4096 * (fieldOp w).toNat + 256 * (fieldX w).toNat + 16 * (fieldY w).toNat + (fieldN w).toNat := by
  simp only [fieldOp_toNat, fieldX_toNat, fieldY_toNat, fieldN_toNat]
  omega

/-- A word as the sum of its masked part and the fields of the format at their places. -/
theorem Format.toNat_eq_add (f : Format) (w : Word) : w.toNat = (w &&& f.mask).toNat +
    256 * (if f.hasX then (fieldX w).toNat else 0) + 16 * (if f.hasY then (fieldY w).toNat else 0) +
    (if f.hasN then (fieldN w).toNat else 0) + (if f.hasKK then (fieldKK w).toNat else 0) +
    (if f.hasNNN then (fieldNNN w).toNat else 0) := by
  rw [toNat_eq_digits (w &&& f.mask)]
  simp only [fieldOp_and, fieldX_and, fieldY_and, fieldN_and, fieldOp_mask, fieldX_mask, fieldY_mask,
    fieldN_mask]
  cases f <;> simp [-BitVec.reduceAllOnes, hasX, hasY, hasN, hasKK, hasNNN, fieldOp_toNat,
    fieldX_toNat, fieldY_toNat, fieldN_toNat, fieldKK_toNat, fieldNNN_toNat] <;> omega

/-- A word is its masked part and the fields of the format. -/
theorem Format.word_ext (f : Format) {v w : Word} (h : v &&& f.mask = w &&& f.mask)
    (hx : f.hasX = true → fieldX v = fieldX w) (hy : f.hasY = true → fieldY v = fieldY w)
    (hn : f.hasN = true → fieldN v = fieldN w) (hkk : f.hasKK = true → fieldKK v = fieldKK w)
    (hnnn : f.hasNNN = true → fieldNNN v = fieldNNN w) : v = w := by
  obtain ⟨hop, hsel⟩ := (f.and_mask_eq_iff v w).mp h
  refine word_eq_iff.mpr ⟨hop, ?_⟩
  cases f with
  | FIX => exact hsel
  | NNN => exact hnnn rfl
  | XKK => exact fieldNNN_eq_iff.mpr ⟨hx rfl, hkk rfl⟩
  | XY => exact fieldNNN_eq_iff.mpr ⟨hx rfl, fieldKK_eq_iff.mpr ⟨hy rfl, hsel⟩⟩
  | XYN => exact fieldNNN_eq_iff.mpr ⟨hx rfl, fieldKK_eq_iff.mpr ⟨hy rfl, hn rfl⟩⟩
  | X => exact fieldNNN_eq_iff.mpr ⟨hx rfl, hsel⟩

end Sys2Proof
end

section
/-! SUPPORT. The encoder by rows and formats (30_encoding.md R106): an instruction is its row with its fields,
its word carries the row's fixed bits, and each field of the format reads back. -/

namespace Sys2Proof

@[simp] theorem Row.row_instr (r : Row) (x y n : Nibble) (kk : Byte) (nnn : Addr) :
    (r.instr x y n kk nnn).row = r := by cases r <;> rfl

/-- The instruction that a row makes of a word's fields. -/
def Row.instrOf (r : Row) (w : Word) : Instr :=
  r.instr (fieldX w) (fieldY w) (fieldN w) (fieldKK w) (fieldNNN w)

@[simp] theorem Row.row_instrOf (r : Row) (w : Word) : (r.instrOf w).row = r := r.row_instr ..

/-- Every instruction is its row with some fields. -/
theorem Instr.exists_fields (i : Instr) : ∃ x y n kk nnn, i = i.row.instr x y n kk nnn := by
  cases i with
  | cls | ret => exact ⟨0, 0, 0, 0, 0, rfl⟩
  | jp nnn | call nnn | ldI nnn | jpV0 nnn => exact ⟨0, 0, 0, 0, nnn, rfl⟩
  | seImm x kk | sneImm x kk | ldImm x kk | addImm x kk | rnd x kk => exact ⟨x, 0, 0, kk, 0, rfl⟩
  | seReg x y | ldReg x y | orReg x y | andReg x y | xorReg x y | addReg x y | subReg x y | shr x y
  | subnReg x y | shl x y | sneReg x y => exact ⟨x, y, 0, 0, 0, rfl⟩
  | drw x y n => exact ⟨x, y, n, 0, 0, rfl⟩
  | skp x | sknp x | getDT x | waitKey x | setDT x | setST x | addI x | ldF x | bcd x | storeRegs x
  | loadRegs x => exact ⟨x, 0, 0, 0, 0, rfl⟩

/-- The word of a format with the given fixed bits and fields (R106). -/
def Format.word (f : Format) (c : Word) (x y n : Nibble) (kk : Byte) (nnn : Addr) : Word :=
  match f with
  | .FIX => c
  | .NNN => c ||| nnn.setWidth 16
  | .XKK => c ||| placeX x ||| kk.setWidth 16
  | .XY => c ||| placeX x ||| placeY y
  | .XYN => c ||| placeX x ||| placeY y ||| n.setWidth 16
  | .X => c ||| placeX x

/-! The fixed bits of a row are 0 where its format has a field. -/

theorem Row.fieldX_code {r : Row} (h : r.format.hasX = true) : fieldX r.code = 0 := by
  revert h; cases r <;> decide

theorem Row.fieldY_code {r : Row} (h : r.format.hasY = true) : fieldY r.code = 0 := by
  revert h; cases r <;> decide

theorem Row.fieldN_code {r : Row} (h : r.format.hasN = true) : fieldN r.code = 0 := by
  revert h; cases r <;> decide

theorem Row.fieldKK_code {r : Row} (h : r.format.hasKK = true) : fieldKK r.code = 0 := by
  revert h; cases r <;> decide

theorem Row.fieldNNN_code {r : Row} (h : r.format.hasNNN = true) : fieldNNN r.code = 0 := by
  revert h; cases r <;> decide

section
variable {f : Format} {c : Word} {r : Row} {x y n : Nibble} {kk : Byte} {nnn : Addr}

/-! Each field of the format reads back. -/

theorem Format.fieldX_word (h : f.hasX = true) (hc : fieldX c = 0) :
    fieldX (f.word c x y n kk nnn) = x := by
  cases f with
  | FIX | NNN => cases h
  | XKK | XY | XYN | X =>
    simp [word, fieldX_or, hc, fieldX_placeX, fieldX_placeY, fieldX_n, fieldX_kk]

theorem Format.fieldY_word (h : f.hasY = true) (hc : fieldY c = 0) :
    fieldY (f.word c x y n kk nnn) = y := by
  cases f with
  | FIX | NNN | XKK | X => cases h
  | XY | XYN => simp [word, fieldY_or, hc, fieldY_placeX, fieldY_placeY, fieldY_n]

theorem Format.fieldN_word (h : f.hasN = true) (hc : fieldN c = 0) :
    fieldN (f.word c x y n kk nnn) = n := by
  cases f with
  | FIX | NNN | XKK | XY | X => cases h
  | XYN => simp [word, fieldN_or, hc, fieldN_placeX, fieldN_placeY, fieldN_n]

theorem Format.fieldKK_word (h : f.hasKK = true) (hc : fieldKK c = 0) :
    fieldKK (f.word c x y n kk nnn) = kk := by
  cases f with
  | FIX | NNN | XY | XYN | X => cases h
  | XKK => simp [word, fieldKK_or, hc, fieldKK_placeX, fieldKK_kk]

theorem Format.fieldNNN_word (h : f.hasNNN = true) (hc : fieldNNN c = 0) :
    fieldNNN (f.word c x y n kk nnn) = nnn := by
  cases f with
  | FIX | XKK | XY | XYN | X => cases h
  | NNN => simp [word, fieldNNN_or, hc, fieldNNN_nnn]

/-- The fixed bits stay. -/
theorem Format.word_and_mask (hc : c &&& f.mask = c) : f.word c x y n kk nnn &&& f.mask = c := by
  cases f with
  | FIX => exact hc
  | NNN => exact Laws.CarriesMatch.nnnForm c nnn hc
  | XKK => exact Laws.CarriesMatch.xkkForm c x kk hc
  | XY => exact Laws.CarriesMatch.xyForm c x y hc
  | XYN => exact Laws.CarriesMatch.xynForm c x y n hc
  | X => exact Laws.CarriesMatch.xForm c x hc

/-- The encoder is uniform by format. -/
theorem encode_instr : encode (r.instr x y n kk nnn) = r.format.word r.code x y n kk nnn := by
  cases r <;> rfl

theorem encode_instr_match : encode (r.instr x y n kk nnn) &&& r.format.mask = r.code := by
  rw [encode_instr, Format.word_and_mask r.code_and_mask]

theorem fieldX_encode_instr (h : r.format.hasX = true) :
    fieldX (encode (r.instr x y n kk nnn)) = x := by
  rw [encode_instr, Format.fieldX_word h (Row.fieldX_code h)]

theorem fieldY_encode_instr (h : r.format.hasY = true) :
    fieldY (encode (r.instr x y n kk nnn)) = y := by
  rw [encode_instr, Format.fieldY_word h (Row.fieldY_code h)]

theorem fieldN_encode_instr (h : r.format.hasN = true) :
    fieldN (encode (r.instr x y n kk nnn)) = n := by
  rw [encode_instr, Format.fieldN_word h (Row.fieldN_code h)]

theorem fieldKK_encode_instr (h : r.format.hasKK = true) :
    fieldKK (encode (r.instr x y n kk nnn)) = kk := by
  rw [encode_instr, Format.fieldKK_word h (Row.fieldKK_code h)]

theorem fieldNNN_encode_instr (h : r.format.hasNNN = true) :
    fieldNNN (encode (r.instr x y n kk nnn)) = nnn := by
  rw [encode_instr, Format.fieldNNN_word h (Row.fieldNNN_code h)]

end

/-- A row takes only the fields of its format. -/
theorem Row.instr_congr {r : Row} {x x' y y' n n' : Nibble} {kk kk' : Byte} {nnn nnn' : Addr}
    (hx : r.format.hasX = true → x = x') (hy : r.format.hasY = true → y = y')
    (hn : r.format.hasN = true → n = n') (hkk : r.format.hasKK = true → kk = kk')
    (hnnn : r.format.hasNNN = true → nnn = nnn') :
    r.instr x y n kk nnn = r.instr x' y' n' kk' nnn' := by
  cases r with
  | cls | ret => rfl
  | jp | call | ldI | jpV0 => rw [hnnn rfl]; rfl
  | seImm | sneImm | ldImm | addImm | rnd => rw [hx rfl, hkk rfl]; rfl
  | seReg | ldReg | orReg | andReg | xorReg | addReg | subReg | shr | subnReg | shl | sneReg =>
    rw [hx rfl, hy rfl]; rfl
  | drw => rw [hx rfl, hy rfl, hn rfl]; rfl
  | skp | sknp | getDT | waitKey | setDT | setST | addI | ldF | bcd | storeRegs | loadRegs =>
    rw [hx rfl]; rfl

/-- The word of an instruction matches its row. -/
theorem encode_match (i : Instr) : encode i &&& i.row.format.mask = i.row.code := by
  obtain ⟨x, y, n, kk, nnn, hi⟩ := i.exists_fields
  rw [hi, Row.row_instr]
  exact encode_instr_match

/-- An instruction is its row with the fields of its word. -/
theorem instrOf_encode (i : Instr) : i.row.instrOf (encode i) = i := by
  obtain ⟨x, y, n, kk, nnn, hi⟩ := i.exists_fields
  rw [hi, Row.row_instr]
  exact Row.instr_congr fieldX_encode_instr fieldY_encode_instr fieldN_encode_instr
    fieldKK_encode_instr fieldNNN_encode_instr

/-- A word that matches a row is the word of the row with its own fields. -/
theorem encode_instrOf {r : Row} {w : Word} (h : w &&& r.format.mask = r.code) :
    encode (r.instrOf w) = w :=
  r.format.word_ext (encode_instr_match.trans h.symm) fieldX_encode_instr fieldY_encode_instr
    fieldN_encode_instr fieldKK_encode_instr fieldNNN_encode_instr

end Sys2Proof
end

section
/-! SUPPORT. The decoder's dispatch (30_encoding.md R94 to R99): which words each group answers, and that a
word decodes to a row exactly when it matches the row. -/

namespace Sys2Proof

/-- The dispatch finds the row that a word matches. -/
theorem decodeRow_of_match {w : Word} {r : Row} (h : w &&& r.format.mask = r.code) :
    decodeRow w = some r := by
  obtain ⟨hop, hsel⟩ := Row.match_iff.mp h
  cases r with
  | cls | ret =>
    rw [word_eq_iff.mpr ⟨hop, hsel⟩]
    rfl
  | jp | call | seImm | sneImm | ldImm | addImm | ldI | jpV0 | rnd | drw =>
    rw [decodeRow, hop]
    rfl
  | seReg | ldReg | orReg | andReg | xorReg | addReg | subReg | shr | subnReg | shl | sneReg =>
    have hn : fieldN w = fieldN _ := hsel
    rw [decodeRow, hop, hn]
    rfl
  | skp | sknp | getDT | waitKey | setDT | setST | addI | ldF | bcd | storeRegs | loadRegs =>
    have hkk : fieldKK w = fieldKK _ := hsel
    rw [decodeRow, hop, hkk]
    rfl

/-! ### The primary nibbles (R94) -/

/-- The primary nibbles that a secondary decode follows (R95). -/
def secondaryNibbles : List Nibble := [0x0#4, 0x5#4, 0x8#4, 0x9#4, 0xE#4, 0xF#4]

/-- The rows that their primary nibble alone selects. -/
def primaryRows : List Row :=
  [.jp, .call, .seImm, .sneImm, .ldImm, .addImm, .ldI, .jpV0, .rnd, .drw]

/-- A word with any other primary nibble matches a row. -/
theorem exists_match_of_primary {w : Word} (h : fieldOp w ∉ secondaryNibbles) :
    ∃ r : Row, w &&& r.format.mask = r.code := by
  have hop : ∀ o : Nibble, o ∉ secondaryNibbles → ∃ r ∈ primaryRows, o = fieldOp r.code := by decide
  have hsel : ∀ r ∈ primaryRows, r.format.SameSelector w r.code := by
    simp [primaryRows, Row.format, Format.SameSelector]
  obtain ⟨r, hr, ho⟩ := hop _ h
  exact ⟨r, Row.match_iff.mpr ⟨ho, hsel r hr⟩⟩

section
variable {w : Word}

theorem decodeRow_of_op0 (h : fieldOp w = 0x0) : decodeRow w = decodeGroup0 w := by
  rw [decodeRow, h]; rfl

theorem decodeRow_of_op5 (h : fieldOp w = 0x5) :
    decodeRow w = if fieldN w = 0x0 then some .seReg else none := by
  rw [decodeRow, h]; rfl

theorem decodeRow_of_op8 (h : fieldOp w = 0x8) : decodeRow w = decodeGroup8 (fieldN w) := by
  rw [decodeRow, h]; rfl

theorem decodeRow_of_op9 (h : fieldOp w = 0x9) :
    decodeRow w = if fieldN w = 0x0 then some .sneReg else none := by
  rw [decodeRow, h]; rfl

theorem decodeRow_of_opE (h : fieldOp w = 0xE) : decodeRow w = decodeGroupE (fieldKK w) := by
  rw [decodeRow, h]; rfl

theorem decodeRow_of_opF (h : fieldOp w = 0xF) : decodeRow w = decodeGroupF (fieldKK w) := by
  rw [decodeRow, h]; rfl

/-! ### What a group of the secondary decode answers (R95): a row of its nibble and selector -/

section
variable {r : Row}

theorem selects_of_decodeGroup0 (h : decodeGroup0 w = some r) :
    fieldOp r.code = 0x0 ∧ r.format.SameSelector w r.code := by
  unfold decodeGroup0 at h
  split_ifs at h with hw hw <;> cases h <;> exact ⟨rfl, congrArg fieldNNN hw⟩

theorem selects_of_decodeGroup8 (h : decodeGroup8 (fieldN w) = some r) :
    fieldOp r.code = 0x8 ∧ r.format.SameSelector w r.code := by
  unfold decodeGroup8 at h
  split_ifs at h <;> cases h <;> exact ⟨rfl, ‹_›⟩

theorem selects_of_decodeGroupE (h : decodeGroupE (fieldKK w) = some r) :
    fieldOp r.code = 0xE ∧ r.format.SameSelector w r.code := by
  unfold decodeGroupE at h
  split_ifs at h <;> cases h <;> exact ⟨rfl, ‹_›⟩

theorem selects_of_decodeGroupF (h : decodeGroupF (fieldKK w) = some r) :
    fieldOp r.code = 0xF ∧ r.format.SameSelector w r.code := by
  unfold decodeGroupF at h
  split_ifs at h <;> cases h <;> exact ⟨rfl, ‹_›⟩

/-- A row that the dispatch finds is one that the word matches. -/
theorem match_of_decodeRow (h : decodeRow w = some r) : w &&& r.format.mask = r.code := by
  by_cases hs : fieldOp w ∈ secondaryNibbles
  · suffices hw : fieldOp r.code = fieldOp w ∧ r.format.SameSelector w r.code from
      Row.match_iff.mpr ⟨hw.1.symm, hw.2⟩
    simp only [secondaryNibbles, List.mem_cons, List.not_mem_nil, or_false] at hs
    obtain hop | hop | hop | hop | hop | hop := hs
    · exact hop ▸ selects_of_decodeGroup0 (decodeRow_of_op0 hop ▸ h)
    · obtain ⟨hn, ⟨⟩⟩ := Option.ite_none_right_eq_some.mp (decodeRow_of_op5 hop ▸ h)
      exact ⟨hop.symm, hn⟩
    · exact hop ▸ selects_of_decodeGroup8 (decodeRow_of_op8 hop ▸ h)
    · obtain ⟨hn, ⟨⟩⟩ := Option.ite_none_right_eq_some.mp (decodeRow_of_op9 hop ▸ h)
      exact ⟨hop.symm, hn⟩
    · exact hop ▸ selects_of_decodeGroupE (decodeRow_of_opE hop ▸ h)
    · exact hop ▸ selects_of_decodeGroupF (decodeRow_of_opF hop ▸ h)
  · obtain ⟨q, hq⟩ := exists_match_of_primary hs
    rw [decodeRow_of_match hq] at h
    cases h
    exact hq

theorem decodeRow_eq_some_iff : decodeRow w = some r ↔ w &&& r.format.mask = r.code :=
  ⟨match_of_decodeRow, decodeRow_of_match⟩

end

/-! ### What a group leaves unknown (R99) -/

/-- A selector chain answers nothing when its test fails and the rest answers nothing. -/
theorem ite_some_eq_none {α : Type} {p : Prop} [Decidable p] {a : α} {o : Option α} :
    (if p then some a else o) = none ↔ ¬p ∧ o = none := by
  by_cases h : p <;> simp [h]

theorem decodeGroup0_eq_none (h : fieldOp w = 0x0) :
    decodeGroup0 w = none ↔ fieldNNN w ≠ 0x0E0 ∧ fieldNNN w ≠ 0x0EE := by
  have hcls : w = 0x00E0 ↔ fieldNNN w = 0x0E0 := word_eq_iff.trans (and_iff_right h)
  have hret : w = 0x00EE ↔ fieldNNN w = 0x0EE := word_eq_iff.trans (and_iff_right h)
  simp only [decodeGroup0, ite_some_eq_none, hcls, hret, and_true, ne_eq]

theorem decodeGroup8_eq_none {n : Nibble} :
    decodeGroup8 n = none ↔ n ∈ [0x8#4, 0x9#4, 0xA#4, 0xB#4, 0xC#4, 0xD#4, 0xF#4] := by
  revert n; decide

theorem decodeGroupE_eq_none {kk : Byte} : decodeGroupE kk = none ↔ kk ∉ [0x9E#8, 0xA1#8] := by
  simp [decodeGroupE, ite_some_eq_none]

theorem decodeGroupF_eq_none {kk : Byte} : decodeGroupF kk = none ↔
    kk ∉ [0x07#8, 0x0A#8, 0x15#8, 0x18#8, 0x1E#8, 0x29#8, 0x33#8, 0x55#8, 0x65#8] := by
  simp [decodeGroupF, ite_some_eq_none]

/-- The words with no row, by their fields. -/
theorem decodeRow_eq_none_iff : decodeRow w = none ↔
    (fieldOp w = 0x0 ∧ fieldNNN w ≠ 0x0E0 ∧ fieldNNN w ≠ 0x0EE) ∨
    (fieldOp w = 0x5 ∧ fieldN w ≠ 0x0) ∨
    (fieldOp w = 0x9 ∧ fieldN w ≠ 0x0) ∨
    (fieldOp w = 0x8 ∧ fieldN w ∈ [0x8#4, 0x9#4, 0xA#4, 0xB#4, 0xC#4, 0xD#4, 0xF#4]) ∨
    (fieldOp w = 0xE ∧ fieldKK w ∉ [0x9E#8, 0xA1#8]) ∨
    (fieldOp w = 0xF ∧ fieldKK w ∉
      [0x07#8, 0x0A#8, 0x15#8, 0x18#8, 0x1E#8, 0x29#8, 0x33#8, 0x55#8, 0x65#8]) := by
  by_cases hs : fieldOp w ∈ secondaryNibbles
  · simp only [secondaryNibbles, List.mem_cons, List.not_mem_nil, or_false] at hs
    obtain hop | hop | hop | hop | hop | hop := hs
    · simp [decodeRow_of_op0 hop, decodeGroup0_eq_none hop, hop]
    · simp [decodeRow_of_op5 hop, hop]
    · simp [decodeRow_of_op8 hop, decodeGroup8_eq_none, hop]
    · simp [decodeRow_of_op9 hop, hop]
    · simp [decodeRow_of_opE hop, decodeGroupE_eq_none, hop]
    · simp [decodeRow_of_opF hop, decodeGroupF_eq_none, hop]
  · obtain ⟨r, hr⟩ := exists_match_of_primary hs
    simp only [secondaryNibbles, List.mem_cons, List.not_mem_nil, or_false, not_or] at hs
    simp [decodeRow_of_match hr, hs]

end

/-! ### Words and bytes -/

theorem decodeWord_eq_unknown_iff {w : Word} : decodeWord w = .unknown w ↔ decodeRow w = none := by
  unfold decodeWord
  cases decodeRow w <;> simp

/-- A word decodes to a row with its own fields when it matches the row. -/
theorem decodeWord_eq_instr_iff {w : Word} {i : Instr} :
    decodeWord w = .instr i ↔ ∃ r : Row, w &&& r.format.mask = r.code ∧ r.instrOf w = i := by
  simp only [← decodeRow_eq_some_iff]
  unfold decodeWord
  cases decodeRow w <;> simp [Row.instrOf]

/-- The bytes of a word decode as the word does. -/
theorem decodeBytes_wordBytes {w : Word} {i : Instr} (h : decodeWord w = .instr i) (rest : List Byte) :
    decodeBytes (wordBytes w ++ rest) = .ok (i, rest) := by
  simp [wordBytes, decodeBytes, join_wordBytes, h]

end Sys2Proof
end

section
/-! SUPPORT. The statements of 30_encoding.md: encoder and decoder are inverse, the opcode map and the unknown
words, and operands as numbers (R93, R104). -/

namespace Sys2Proof

/-- The decoder inverts the encoder. -/
theorem decodeWord_encode (i : Instr) : decodeWord (encode i) = .instr i :=
  decodeWord_eq_instr_iff.mpr ⟨i.row, encode_match i, instrOf_encode i⟩

/-- Settles O2: the encoding matches the instruction's row, and its fields are the operands. -/
theorem decodingAnEncodedInstructionGivesItBack :
    Obligations.DecodingAnEncodedInstructionGivesItBack :=
  fun i rest => ⟨decodeWord_encode i, decodeBytes_wordBytes (decodeWord_encode i) rest⟩

/-- Settles O3: a word is the fixed bits of the row it matches and its own fields. -/
theorem encodingADecodedWordGivesItBack : Obligations.EncodingADecodedWordGivesItBack := by
  intro w i h
  obtain ⟨r, hr, rfl⟩ := decodeWord_eq_instr_iff.mp h
  exact encode_instrOf hr

/-- Settles O4: the dispatch finds a row exactly when the word matches it, and finds one row only. -/
theorem decoderFollowsTheOpcodeMap : Obligations.DecoderFollowsTheOpcodeMap := by
  refine ⟨fun w r => ?_, fun w r q hr hq => ?_⟩
  · change _ ↔ decodeWord w = .instr (r.instrOf w)
    rw [decodeWord_eq_instr_iff]
    refine ⟨fun h => ⟨r, h, rfl⟩, fun ⟨q, hq, hi⟩ => ?_⟩
    have hqr : q = r := by simpa using congrArg Instr.row hi
    exact hqr ▸ hq
  · exact Option.some_injective _ ((decodeRow_of_match hr).symm.trans (decodeRow_of_match hq))

/-- Settles O5, group by group of the secondary decode; every other primary nibble selects a row. -/
theorem unknownWordsAreTheSixClasses : Obligations.UnknownWordsAreTheSixClasses :=
  fun _ => decodeWord_eq_unknown_iff.trans decodeRow_eq_none_iff

/-! ### Operands as numbers -/

theorem RawInstr.wellFormed_iff {r : RawInstr} : r.WellFormed = true ↔
    (r.x < if r.row.format.hasX then 16 else 1) ∧ (r.y < if r.row.format.hasY then 16 else 1) ∧
    (r.n < if r.row.format.hasN then 16 else 1) ∧ (r.kk < if r.row.format.hasKK then 256 else 1) ∧
    (r.nnn < if r.row.format.hasNNN then 4096 else 1) := by
  simp only [WellFormed, Option.isNone_iff_eq_none, check, ite_some_eq_none, not_le, and_true]

/-- The ranges, by the lists of formats that have each field. -/
theorem RawInstr.wellFormed_iff_ranges {r : RawInstr} : r.WellFormed = true ↔
    (if r.row.format ∈ [Format.XKK, .XY, .XYN, .X] then r.x < 16 else r.x = 0) ∧
    (if r.row.format ∈ [Format.XY, .XYN] then r.y < 16 else r.y = 0) ∧
    (if r.row.format ∈ [Format.XYN] then r.n < 16 else r.n = 0) ∧
    (if r.row.format ∈ [Format.XKK] then r.kk < 256 else r.kk = 0) ∧
    (if r.row.format ∈ [Format.NNN] then r.nnn < 4096 else r.nnn = 0) := by
  rw [wellFormed_iff]
  cases r.row.format <;> simp [Format.hasX, Format.hasY, Format.hasN, Format.hasKK, Format.hasNNN]

/-- A number in the range of a field that the format may lack (then the number is 0) is the field's value. -/
theorem ite_toNat_eq {b : Bool} {w k : Nat} {v : BitVec w} (hk : k < if b then 2 ^ w else 1)
    (hv : b = true → v = BitVec.ofNat w k) : (if b then v.toNat else 0) = k := by
  cases b with
  | true => rw [if_pos rfl, hv rfl, BitVec.toNat_ofNat, Nat.mod_eq_of_lt (b := 2 ^ w) hk]
  | false => exact (Nat.lt_one_iff.mp hk).symm

/-- Settles O6: the word of the instruction is its fixed bits plus the fields it reads back. -/
theorem wellFormedNumbersEncodeAtTheirPlaces : Obligations.WellFormedNumbersEncodeAtTheirPlaces := by
  intro r
  refine ⟨RawInstr.wellFormed_iff_ranges, fun h => ?_, fun h => by simp [RawInstr.toInstr, h]⟩
  obtain ⟨hx, hy, hn, hkk, hnnn⟩ := RawInstr.wellFormed_iff.mp h
  refine ⟨_, if_pos h, Row.row_instr .., ?_⟩
  rw [r.row.format.toNat_eq_add (encode _), encode_instr_match, ite_toNat_eq hx fieldX_encode_instr,
    ite_toNat_eq hy fieldY_encode_instr, ite_toNat_eq hn fieldN_encode_instr,
    ite_toNat_eq hkk fieldKK_encode_instr, ite_toNat_eq hnnn fieldNNN_encode_instr]

/-- Settles O1, by running the decoder. -/
theorem sampleWordsDecode : Obligations.SampleWordsDecode := by
  unfold Obligations.SampleWordsDecode; decide

end Sys2Proof
end

section
/-! SUPPORT. The cycle of a step by its cases (40_cycle_and_host.md R121 to R127): a key wait, a decoded
instruction, an unknown word. -/

namespace Sys2Proof.Machine

/-- A step in the fetch range, not in key wait, does what the fetched word decodes to. -/
theorem step_eq_runDecoded {s : State} (hw : s.waiting = false) (hr : Stated.InRange s) :
    step s = runDecoded exec (decodeWord s.fetch) s := by
  rw [step, cycle, hw, s.fetchable_iff.mpr hr]
  rfl

theorem step_of_waiting {s : State} (hw : s.waiting = true) : step s = .next s := by
  rw [step, cycle, if_pos hw]

theorem State.event_of_waiting {s : State} (hw : s.waiting = true) : s.event = none := by
  rw [State.event, if_pos hw]

/-- An unknown word that a step fetches is reported. -/
theorem State.event_of_unknown {s : State} {w : Word} (hw : s.waiting = false) (hr : Stated.InRange s)
    (hd : decodeWord s.fetch = .unknown w) : s.event = some w := by
  rw [State.event, hw, s.fetchable_iff.mpr hr, hd]
  rfl

/-- The word of two bytes that decode to an instruction decodes to it. -/
theorem decodeWord_of_decodeBytes_pair {hi lo : Byte} {i : Instr} {rest : List Byte}
    (h : decodeBytes [hi, lo] = .ok (i, rest)) : decodeWord (hi ++ lo) = .instr i := by
  simp only [decodeBytes] at h
  split at h
  · next hd => cases h; exact hd
  · cases h

/-- A word that matches no row of the opcode map is unknown. -/
theorem decodeWord_of_no_match {w : Word} (h : ∀ r : Row, w &&& r.format.mask ≠ r.code) :
    decodeWord w = .unknown w :=
  decodeWord_eq_unknown_iff.mpr <|
    Option.eq_none_iff_forall_ne_some.mpr fun r hr => h r (decodeRow_eq_some_iff.mp hr)

/-- Settles O7: the two bytes at `pc` are the fetched word, and a decoded instruction reports no event. -/
theorem stepRunsTheDecodedInstruction : Obligations.StepRunsTheDecodedInstruction := by
  intro s i hw hr hb
  have hd : decodeWord s.fetch = .instr i := s.fetch_eq ▸ decodeWord_of_decodeBytes_pair hb
  have hstep : step s = exec i s := by rw [step_eq_runDecoded hw hr, hd]; rfl
  exact ⟨hstep, fun t ht => stepTxn_ok (hstep.trans ht) (State.event_of_instr hd),
    fun f hf => stepTxn_fault (hstep.trans hf)⟩

/-- Settles O10: no row matches, so the decoder answers the word itself. -/
theorem unknownOpcodeOnlyAdvances : Obligations.UnknownOpcodeOnlyAdvances := by
  intro s hw hr hno
  have hd := decodeWord_of_no_match hno
  have hstep : step s = .next s.advance := by rw [step_eq_runDecoded hw hr, hd]; rfl
  exact ⟨hstep, stepTxn_unknown hstep (State.event_of_unknown hw hr hd)⟩

end Sys2Proof.Machine
end

section
/-! SUPPORT. The host's transactions (40_cycle_and_host.md R129 to R131): what `load` and `set_key` write, and
what every transaction but a step and a reset leaves alone (R138). -/

namespace Sys2Proof.Machine

/-! `load` -/

theorem load_of_lt {s : State} {bytes : List Byte} (h : 3584 < bytes.length) :
    load bytes s = (.tooLarge, s) := if_pos h

theorem load_of_le {s : State} {bytes : List Byte} (h : bytes.length ≤ 3584) :
    load bytes s = (.ok, s.storeBytes 0x200 bytes) := if_neg (Nat.not_lt.mpr h)

/-- A load changes memory only. -/
theorem load_frame (bytes : List Byte) (s : State) :
    (load bytes s).2 = { s with Mem := (load bytes s).2.Mem } := by
  obtain h | h := Nat.lt_or_ge 3584 bytes.length
  · rw [load_of_lt h]
  · rw [load_of_le h]
    exact s.storeBytes_frame 0x200 bytes

/-- A byte read after bytes were stored from `a` up without passing the end of memory: the stored byte at its
address, the old byte elsewhere. -/
theorem State.memRead_storeBytes (s : State) (a : Nat) (bytes : List Byte) (c : Addr)
    (ha : a + bytes.length ≤ 4096) :
    (s.storeBytes a bytes).memRead c =
      if h : a ≤ c.toNat ∧ c.toNat - a < bytes.length then bytes[c.toNat - a] else s.memRead c := by
  induction bytes generalizing s a with
  | nil => simp [storeBytes]
  | cons b bs ih =>
    simp only [List.length_cons] at ha ⊢
    have hc : c = BitVec.ofNat 12 a ↔ c.toNat = a := by
      rw [← BitVec.toNat_inj, BitVec.toNat_ofNat, Nat.mod_eq_of_lt (by omega)]
    rw [storeBytes, ih _ _ (by omega), memRead_memWrite]
    simp only [hc]
    obtain hlt | heq | hgt := Nat.lt_trichotomy c.toNat a
    · rw [dif_neg (by omega), if_neg (by omega), dif_neg (by omega)]
    · rw [dif_neg (by omega), if_pos heq, dif_pos (by omega)]
      simp [heq]
    · have hsub : c.toNat - a = c.toNat - (a + 1) + 1 := by omega
      rw [if_neg (by omega)]
      refine dite_congr (propext (by omega)) (fun _ => ?_) fun _ => rfl
      simp [hsub]

/-- A load writes from 0x200 up only. -/
theorem memRead_load_of_lt {a : Addr} (bytes : List Byte) (s : State) (ha : a.toNat < 0x200) :
    (load bytes s).2.memRead a = s.memRead a := by
  obtain h | h := Nat.lt_or_ge 3584 bytes.length
  · rw [load_of_lt h]
  · rw [load_of_le h]
    exact (s.memRead_storeBytes 0x200 bytes a (by omega)).trans (dif_neg (by omega))

/-- Settles O37: the largest image ends where memory ends. -/
theorem loadIsAllOrNothing : Obligations.LoadIsAllOrNothing := by
  refine fun s bytes => ⟨load_of_lt, fun h => ⟨_, load_of_le h, s.storeBytes_frame _ _, fun a => ?_⟩⟩
  exact s.memRead_storeBytes 0x200 bytes a (by omega)

/-! `tick` -/

/-- Settles O36, by the down-count of each timer. -/
theorem tickCountsTimersDown : Obligations.TickCountsTimersDown :=
  fun s => ⟨tick s, rfl, countDown_toNat s.DT, countDown_toNat s.ST, rfl⟩

/-! `set_key` -/

/-- A `set_key` that a key wait captures: a press of a key that was up (R130). -/
def Captures (s : State) (k : Nibble) (down : Bool) : Prop :=
  s.waiting = true ∧ down = true ∧ s.keyDown k = false

theorem setKey_of_captures {s : State} {k : Nibble} {down : Bool} (h : Captures s k down) :
    setKey k down s = ((s.writeKey k down).writeV s.waitReg (k.setWidth 8)).endWait := by
  obtain ⟨hw, hd, hk⟩ := h
  exact if_pos (by simp [hw, hd, hk])

theorem setKey_of_not_captures {s : State} {k : Nibble} {down : Bool} (h : ¬ Captures s k down) :
    setKey k down s = s.writeKey k down :=
  if_neg (by simpa [Captures, and_assoc] using h)

/-- `set_key` writes its key's level. -/
theorem keyDown_setKey (s : State) (k j : Nibble) (down : Bool) :
    (setKey k down s).keyDown j = if j = k then down else s.keyDown j := by
  by_cases h : Captures s k down
  · rw [setKey_of_captures h]
    exact s.keyDown_writeKey k j down
  · rw [setKey_of_not_captures h]
    exact s.keyDown_writeKey k j down

/-- `set_key` writes no register but the waiting one, and that only in a wait. -/
theorem readV_setKey {s : State} {r : Nibble} (k : Nibble) (down : Bool)
    (hr : s.waiting = false ∨ r ≠ s.waitReg) : (setKey k down s).readV r = s.readV r := by
  by_cases h : Captures s k down
  · have hne : r ≠ s.waitReg := hr.resolve_left (by simp [h.1])
    rw [setKey_of_captures h]
    exact State.readV_writeV_ne _ _ hne
  · rw [setKey_of_not_captures h]
    rfl

/-- `set_key` can change the keys, the registers and the wait, and nothing else. -/
theorem setKey_frame (k : Nibble) (down : Bool) (s : State) : setKey k down s =
    { s with
      V := (setKey k down s).V, Key := (setKey k down s).Key, waiting := (setKey k down s).waiting } := by
  by_cases h : Captures s k down
  · rw [setKey_of_captures h]
    rfl
  · rw [setKey_of_not_captures h]
    rfl

/-- Settles O35, by whether the wait captures the press. -/
theorem setKeyWritesAndCaptures : Obligations.SetKeyWritesAndCaptures := by
  refine fun s k down => ⟨setKey k down s, rfl, fun j => keyDown_setKey s k j down, fun h => ?_,
    fun h => ?_⟩
  · have hkeep : Stated.KeepsRegsBut [s.waitReg] s (setKey k down s) := fun r hr =>
      readV_setKey k down (.inr (by simpa using hr))
    rw [setKey_of_captures h] at hkeep ⊢
    refine ⟨?_, rfl, hkeep, rfl⟩
    rw [State.readV_endWait, State.readV_writeV_same]
    exact BitVec.toNat_setWidth_of_le (by decide)
  · rw [setKey_of_not_captures h]
    rfl

/-! What ends a key wait, and what the three transactions leave alone -/

/-- Settles O9: a step in key wait does nothing, and of the other transactions `set_key` alone writes the
wait, when it captures. -/
theorem keyWaitStepChangesNothing : Obligations.KeyWaitStepChangesNothing := by
  intro s hw
  have hstep : transact .step s = (.ok, s) :=
    stepTxn_ok (step_of_waiting hw) (State.event_of_waiting hw)
  refine ⟨step_of_waiting hw, hstep, fun t ht => ?_⟩
  cases t with
  | reset => exact .inl rfl
  | load bytes =>
    rw [transact, load_frame] at ht
    simp [hw] at ht
  | step => simp [hstep, hw] at ht
  | tick => simp [transact, tick, hw] at ht
  | setKey k down =>
    by_cases h : Captures s k down
    · obtain ⟨-, rfl, hk⟩ := h
      exact .inr ⟨k, rfl, hk⟩
    · simp [transact, setKey_of_not_captures h, hw] at ht

/-- Settles O40, transaction by transaction. -/
theorem hostTransactionsLeaveAlone : Obligations.HostTransactionsLeaveAlone := by
  intro s t hstep hreset
  cases t with
  | step => exact absurd rfl hstep
  | reset => exact absurd rfl hreset
  | load bytes =>
    exact ⟨_, load_frame bytes s, rfl, rfl, rfl, rfl, rfl, fun _ _ => rfl, fun _ => ⟨rfl, rfl⟩,
      fun _ ha => memRead_load_of_lt bytes s ha, fun h => absurd rfl (h bytes)⟩
  | tick =>
    exact ⟨tick s, rfl, rfl, rfl, rfl, rfl, rfl, fun _ _ => rfl, fun h => absurd rfl h,
      fun _ _ => rfl, fun _ => rfl⟩
  | setKey k down =>
    exact ⟨_, setKey_frame k down s, rfl, rfl, rfl, rfl, rfl, fun _ hr => readV_setKey k down hr,
      fun _ => ⟨rfl, rfl⟩, fun _ _ => rfl, fun _ => rfl⟩

end Sys2Proof.Machine
end

section
/-! SUPPORT. The outputs (40_cycle_and_host.md R133, R134). -/

namespace Sys2Proof.Machine

/-- A pixel from its position in the snapshot. -/
theorem State.pixel_of_position (s : State) (px : Fin 64) (py : Fin 32) :
    s.pixel ⟨(py.val * 64 + px.val) % 64, by omega⟩ ⟨(py.val * 64 + px.val) / 64, by omega⟩ =
      s.pixel px py := by
  congr <;> omega

/-- The snapshot by position: element `p` is the pixel of column `p mod 64` and row `p div 64`. -/
theorem State.displaySnapshot_eq_ofFn (s : State) : s.displaySnapshot =
    List.ofFn fun p : Fin (32 * 64) => s.pixel ⟨p.val % 64, by omega⟩ ⟨p.val / 64, by omega⟩ := by
  simp only [List.ofFn_mul, pixel_of_position, List.ofFn_eq_map]
  rfl

/-- Settles O41: row `py` of the snapshot begins at `py * 64`. -/
theorem outputsShowDisplayAndSound : Obligations.OutputsShowDisplayAndSound := by
  intro s
  rw [s.displaySnapshot_eq_ofFn]
  refine ⟨List.length_ofFn, fun px py => ?_, ?_⟩
  · rw [List.getElem?_ofFn, dif_pos (by omega)]
    exact congrArg some (s.pixel_of_position px py)
  · simp [State.soundActive, Nat.pos_iff_ne_zero, ← BitVec.toNat_inj]

end Sys2Proof.Machine
end

section
/-! SUPPORT. Two runs at different draws: only `Cxkk` reads the random byte (40_cycle_and_host.md R135). -/

namespace Sys2Proof.Machine

/-- The first state is still at draw `n`, and the second is that state at draw `d`. -/
def AtDraws (n d : Nat) (t t' : State) : Prop := t.draws = n ∧ t' = { t with draws := d }

/-- Two answers after the same check end alike when the next states are related. -/
theorem Alike.raiseIf {R : State → State → Prop} {t t' : State} {p : Prop} [Decidable p] (f : Fault)
    (h : R t t') : Alike R (if p then Machine.raise f else .next t)
      (if p then Machine.raise f else .next t') := by
  split
  · exact .raise f
  · exact .next h

theorem State.push_setDraws (s : State) (w : Word) (d : Nat) :
    ({ s with draws := d } : State).push w = { s.push w with draws := d } := by
  unfold push
  split <;> rfl

/-- An instruction that has nothing to do with the draws carries them along. -/
theorem exec_alike_draws_of_row (s : State) (d : Nat) {i : Instr} (hi : i.row ∉ unreadRows) :
    Alike (AtDraws s.draws d) (exec i s) (exec i { s with draws := d }) := by
  obtain ⟨t, ht, ht'⟩ := exec_setUnread s s.Stack s.ST d hi
  obtain ⟨hst, -, hv, hd⟩ := (exec_effect ht).keeps_unread hi
  rw [ht]
  refine ht' ▸ .next ⟨hd, ?_⟩
  rw [← hst, ← hv]
  rfl

/-- No instruction but `Cxkk` reads or counts a draw. -/
theorem exec_alike_draws (s : State) (d : Nat) {i : Instr} (hi : ∀ x kk, i ≠ .rnd x kk) :
    Alike (AtDraws s.draws d) (exec i s) (exec i { s with draws := d }) := by
  cases i with
  | rnd x kk => exact absurd rfl (hi x kk)
  | call nnn =>
    exact .raiseIf _ ⟨s.advance.push_draws _, congrArg (State.writePc · (zextAddr nnn))
      (s.advance.push_setDraws (s.pc + 2) d)⟩
  | ret => exact .raiseIf _ ⟨rfl, rfl⟩
  | setST x => exact .next ⟨rfl, rfl⟩
  | _ => exact exec_alike_draws_of_row s d (by simp [Instr.row, unreadRows])

/-- Settles O50: the step sees the same wait, `pc` and memory, and every instruction but `Cxkk` carries the
draws along. -/
theorem onlyRandomReadsTheRandomByte : Obligations.OnlyRandomReadsTheRandomByte := by
  intro s d hrnd
  obtain ⟨hfault, hnext⟩ : Alike (AtDraws s.draws d) (step s) (step { s with draws := d }) :=
    step_alike rfl rfl rfl ⟨rfl, rfl⟩ ⟨rfl, rfl⟩ fun i hi =>
      exec_alike_draws s d fun x kk h => hrnd x kk (hi.trans (congrArg _ h))
  refine ⟨hfault, fun t ht => ?_⟩
  obtain ⟨_, ht', hd, rfl⟩ := hnext t ht
  exact ⟨hd, ht'⟩

end Sys2Proof.Machine
end

section
/-! SUPPORT. Words made of hexadecimal digits (30_encoding.md R91, R92): those with the fixed bits of a row decode
to the row's instruction, and which fields a word of two operand digits and a last digit has. -/

namespace Sys2Proof

open Sys2Proof.Stated

/-- A number that is the word of an instruction decodes to the instruction. -/
theorem decodeWord_ofNat {i : Instr} {m : Nat} (h : (encode i).toNat = m) :
    decodeWord (BitVec.ofNat 16 m) = .instr i := by
  rw [← h, BitVec.ofNat_toNat, BitVec.setWidth_eq, decodeWord_encode]

/-! The word of a row is the sum of its fixed bits and the fields of its format. -/

section
variable {r : Row} {op low : Nat}

theorem decodeWord_patNNN (hr : r.format = .NNN) (hc : r.code.toNat = op * 4096) (nnn : Addr) :
    decodeWord (patNNN op nnn) = .instr (r.instr 0 0 0 0 nnn) := by
  refine decodeWord_ofNat ?_
  rw [r.format.toNat_eq_add, encode_instr_match, hc]
  simp [hr, Format.hasX, Format.hasY, Format.hasN, Format.hasKK, Format.hasNNN, fieldNNN_encode_instr]

theorem decodeWord_patXKK (hr : r.format = .XKK) (hc : r.code.toNat = op * 4096) (x : Nibble)
    (kk : Byte) : decodeWord (patXKK op x kk) = .instr (r.instr x 0 0 kk 0) := by
  refine decodeWord_ofNat ?_
  rw [r.format.toNat_eq_add, encode_instr_match, hc]
  simp [hr, Format.hasX, Format.hasY, Format.hasN, Format.hasKK, Format.hasNNN, fieldX_encode_instr,
    fieldKK_encode_instr, mul_comm]

theorem decodeWord_patXY (hr : r.format = .XY) (hc : r.code.toNat = op * 4096 + low) (x y : Nibble) :
    decodeWord (patXY op x y low) = .instr (r.instr x y 0 0 0) := by
  refine decodeWord_ofNat ?_
  rw [r.format.toNat_eq_add, encode_instr_match, hc]
  simp [hr, Format.hasX, Format.hasY, Format.hasN, Format.hasKK, Format.hasNNN, fieldX_encode_instr,
    fieldY_encode_instr]
  omega

end

section
variable {op low : Nat} {x y : Nibble}

theorem fieldOp_patXY (hlow : low < 16) : fieldOp (patXY op x y low) = BitVec.ofNat 4 op := by
  apply BitVec.eq_of_toNat_eq
  simp only [fieldOp_toNat, patXY, BitVec.toNat_ofNat]
  omega

theorem fieldN_patXY : fieldN (patXY op x y low) = BitVec.ofNat 4 low := by
  apply BitVec.eq_of_toNat_eq
  simp only [fieldN_toNat, patXY, BitVec.toNat_ofNat]
  omega

/-- In groups 5 and 9 a last digit other than 0 is no row's (R97). -/
theorem decodeWord_patXY_unknown (hop : op = 0x5 ∨ op = 0x9) (h0 : 0 < low) (hlow : low < 16) :
    decodeWord (patXY op x y low) = .unknown (patXY op x y low) := by
  have hn : fieldN (patXY op x y low) ≠ 0x0 := by
    rw [fieldN_patXY, Ne, ← BitVec.toNat_inj, BitVec.toNat_ofNat, Nat.mod_eq_of_lt (b := 2 ^ 4) hlow]
    exact h0.ne'
  refine decodeWord_eq_unknown_iff.mpr (decodeRow_eq_none_iff.mpr ?_)
  obtain rfl | rfl := hop
  · exact .inr (.inl ⟨fieldOp_patXY hlow, hn⟩)
  · exact .inr (.inr (.inl ⟨fieldOp_patXY hlow, hn⟩))

end

end Sys2Proof
end

section
/-! SUPPORT. Control transfer (41_control_flow.md R160 to R168): jumps, call and return, and the skips that
compare a register. -/

namespace Sys2Proof.Machine

open Sys2Proof.Stated

/-! ### Jumps -/

/-- A step outside the fetch range, not in key wait, faults. -/
theorem step_of_outOfRange {s : State} (hw : s.waiting = false)
    (h : s.pc.toNat < 0x200 ∨ 0xFFE < s.pc.toNat) : step s = .fault .pcOutOfRange := by
  have hf : ¬ s.fetchable = true := by rw [s.fetchable_iff]; omega
  rw [step, cycle, hw, if_neg Bool.false_ne_true, if_neg hf, raise]

/-- A jump changes `pc` alone. -/
theorem State.onlyPc_advance_writePc (s : State) (w : Word) : OnlyPc s (s.advance.writePc w) :=
  ⟨rfl, fun _ => rfl⟩

/-- Settles O14: the sum with `V[0]` needs no 17th bit, and the step after the jump checks the target. -/
theorem jumpsSetTheProgramCounter : Obligations.JumpsSetTheProgramCounter := by
  intro s nnn
  have hjp := zextAddr_toNat nnn
  have hjpV0 := zextAddr_add_zextByte_toNat nnn (s.readV 0)
  refine ⟨decodeWord_patNNN (r := .jp) rfl rfl nnn,
    ⟨_, rfl, hjp, s.onlyPc_advance_writePc _, fun hw h => step_of_outOfRange hw ?_⟩,
    decodeWord_patNNN (r := .jpV0) rfl rfl nnn,
    ⟨_, rfl, hjpV0, s.onlyPc_advance_writePc _, fun hw h => step_of_outOfRange hw (hjpV0 ▸ h)⟩⟩
  rw [State.writePc_pc, hjp]
  omega

/-! ### Call and return -/

/-- Settles O15, by the stack check. -/
theorem callPushesOrOverflows : Obligations.CallPushesOrOverflows := by
  intro s nnn
  refine ⟨decodeWord_patNNN (r := .call) rfl rfl nnn, exec_call_of_eq nnn, fun hsp =>
    ⟨_, exec_call_of_lt nnn hsp, fun k => ?_, rfl, zextAddr_toNat nnn, rfl, fun _ => rfl⟩⟩
  simp [Vector.getElem_set, eq_comm]

/-- Settles O16, by the stack check. -/
theorem returnPopsOrUnderflows : Obligations.ReturnPopsOrUnderflows := by
  refine ⟨decodeWord_encode .ret, fun s => ⟨exec_ret_of_eq, fun hsp =>
    ⟨_, exec_ret_of_ne hsp, ?_, s.top_eq_getElem, rfl, fun _ => rfl⟩⟩⟩
  exact Nat.sub_add_cancel (Nat.pos_of_ne_zero hsp)

/-- Settles O17: the entry that the return pops is the one that the call pushed. -/
theorem returnUndoesCall : Obligations.ReturnUndoesCall := by
  intro s nnn hsp
  obtain ⟨-, -, hcall⟩ := callPushesOrOverflows s nnn
  obtain ⟨t, ht, hentry, hdepth, -⟩ := hcall hsp
  refine ⟨t, ht, fun t' hsp' hstack' => ?_⟩
  obtain ⟨-, hret⟩ := returnPopsOrUnderflows.2 t'
  obtain ⟨u, hu, hdepth', hpc, -⟩ := hret (by rw [hsp', hdepth]; exact Nat.succ_ne_zero _)
  rw [hsp', hdepth] at hdepth' hpc
  refine ⟨u, hu, ?_, Fin.ext (Nat.succ_injective hdepth')⟩
  calc u.pc = t.Stack[(⟨s.sp.val, hsp⟩ : Fin 16)] := by rw [hpc ⟨s.sp.val, hsp⟩ rfl, hstack']
    _ = s.pc + 2 := by rw [hentry, if_pos rfl]

/-! ### Skips -/

/-- A skip changes `pc` alone. -/
theorem State.onlyPc_advance_skipIf (s : State) (c : Bool) : OnlyPc s (s.advance.skipIf c) := by
  cases c <;> exact ⟨rfl, fun _ => rfl⟩

/-- A skip on equal operands. -/
theorem State.advance_skipIf_beq_pc (s : State) (a b : Byte) :
    (s.advance.skipIf (a == b)).pc = s.pc + (if a = b then 4 else 2) := by
  by_cases h : a = b <;> simp [h, BitVec.add_assoc]

/-- A skip on different operands. -/
theorem State.advance_skipIf_bne_pc (s : State) (a b : Byte) :
    (s.advance.skipIf (a != b)).pc = s.pc + (if a = b then 2 else 4) := by
  by_cases h : a = b <;> simp [h, BitVec.add_assoc]

/-- Settles O18: each is a skip on a comparison, and a last digit other than 0 has no row. -/
theorem registerSkips : Obligations.RegisterSkips := by
  intro s x y kk
  exact ⟨decodeWord_patXKK (r := .seImm) rfl rfl x kk,
    ⟨_, rfl, s.onlyPc_advance_skipIf _, s.advance_skipIf_beq_pc _ _⟩,
    decodeWord_patXKK (r := .sneImm) rfl rfl x kk,
    ⟨_, rfl, s.onlyPc_advance_skipIf _, s.advance_skipIf_bne_pc _ _⟩,
    decodeWord_patXY (r := .seReg) rfl rfl x y,
    ⟨_, rfl, s.onlyPc_advance_skipIf _, s.advance_skipIf_beq_pc _ _⟩,
    decodeWord_patXY (r := .sneReg) rfl rfl x y,
    ⟨_, rfl, s.onlyPc_advance_skipIf _, s.advance_skipIf_bne_pc _ _⟩,
    fun low h0 hlow => ⟨decodeWord_patXY_unknown (.inl rfl) h0 hlow,
      decodeWord_patXY_unknown (.inr rfl) h0 hlow⟩⟩

end Sys2Proof.Machine
end

section
/-! SUPPORT. Register load, arithmetic, logic, shifts, random (42_alu.md R180 to R193): the frame of a register
write, what the two orders of R180 leave in `V[x]` and `VF`, and the results and flags as numbers. -/

namespace Sys2Proof.Machine

open Sys2Proof.Stated

/-! ### Frames -/

/-- The advance changes no register. -/
theorem State.onlyRegs_advance (s : State) (ds : List Nibble) : OnlyRegs ds s s.advance :=
  ⟨rfl, fun _ _ => rfl, fun _ => rfl⟩

/-- A write of a listed register stays within the frame. -/
theorem onlyRegs_writeV {ds : List Nibble} {s t : State} {x : Nibble} (h : OnlyRegs ds s t) (hx : x ∈ ds)
    (b : Byte) : OnlyRegs ds s (t.writeV x b) := by
  obtain ⟨hframe, hregs, hmem⟩ := h
  refine ⟨congrArg (State.writeV · x b) hframe, fun r hr => ?_, hmem⟩
  have hne : r ≠ x := fun h => hr (h ▸ hx)
  rw [State.readV_writeV_ne t b hne, hregs r hr]

theorem State.onlyRegs_advance_writeV (s : State) (x : Nibble) (b : Byte) :
    OnlyRegs [x] s (s.advance.writeV x b) :=
  onlyRegs_writeV (s.onlyRegs_advance _) (by simp) b

theorem State.onlyRegs_resultThenFlag (s : State) (x : Nibble) (r f : Byte) :
    OnlyRegs [x, 0xF] s (s.advance.resultThenFlag x r f) :=
  onlyRegs_writeV (onlyRegs_writeV (s.onlyRegs_advance _) (by simp) r) (by simp) f

theorem State.onlyRegs_flagThenShift (s : State) (x : Nibble) (f : Byte) (op : Byte → Byte) :
    OnlyRegs [x, 0xF] s (s.advance.flagThenShift x f op) :=
  onlyRegs_writeV (onlyRegs_writeV (s.onlyRegs_advance _) (by simp) f) (by simp) _

/-! ### The two orders of R180 -/

theorem State.readV_resultThenFlag_flag (s : State) (x : Nibble) (r f : Byte) :
    (s.resultThenFlag x r f).readV 0xF = f := State.readV_writeV_same _ _ f

theorem State.readV_resultThenFlag_of_ne (s : State) {x : Nibble} (r f : Byte) (hx : x ≠ 0xF) :
    (s.resultThenFlag x r f).readV x = r :=
  (State.readV_writeV_ne _ f hx).trans (State.readV_writeV_same s x r)

theorem State.readV_flagThenShift_of_ne (s : State) {x : Nibble} (f : Byte) (op : Byte → Byte)
    (hx : x ≠ 0xF) : (s.flagThenShift x f op).readV x = op (s.readV x) := by
  rw [flagThenShift, readV_writeV_same, readV_writeVF, if_neg hx]

theorem State.readV_flagThenShift_flag_of_ne (s : State) {x : Nibble} (f : Byte) (op : Byte → Byte)
    (hx : x ≠ 0xF) : (s.flagThenShift x f op).readV 0xF = f := by
  rw [flagThenShift, readV_writeV_ne _ _ hx.symm, readV_writeVF, if_pos rfl]

/-- Where `x` is 0xF the flag is what is shifted (decision D13). -/
theorem State.readV_flagThenShift_VF (s : State) (f : Byte) (op : Byte → Byte) :
    (s.flagThenShift 0xF f op).readV 0xF = op f := by
  rw [flagThenShift, readV_writeV_same, readV_writeVF, if_pos rfl]

/-! ### Results and flags as numbers -/

theorem toNat_sub_byte (a b : Byte) : (a - b).toNat = (a.toNat + 256 - b.toNat) % 256 := by
  have := b.isLt
  rw [BitVec.toNat_sub]
  congr 1
  omega

theorem flagByte_decide (p : Prop) [Decidable p] : flagByte (decide p) = if p then 1 else 0 := by
  simp [flagByte]

theorem shiftedOutLow_toNat (a : Byte) : (shiftedOutLow a).toNat = a.toNat % 2 := by
  simp [shiftedOutLow]

theorem shiftedOutHigh_toNat (a : Byte) : (shiftedOutHigh a).toNat = a.toNat / 128 := by
  have := a.isLt
  simp [shiftedOutHigh, Nat.shiftRight_eq_div_pow]
  omega

theorem toNat_shiftRight_one (a : Byte) : (a >>> 1).toNat = a.toNat / 2 := by
  rw [BitVec.toNat_ushiftRight, Nat.shiftRight_eq_div_pow, pow_one]

theorem toNat_shiftLeft_one (a : Byte) : (a <<< 1).toNat = a.toNat * 2 % 256 := by
  rw [BitVec.toNat_shiftLeft, Nat.shiftLeft_eq, pow_one]

/-- A lost low bit shifted right is 0. -/
theorem shiftedOutLow_shiftRight_one (a : Byte) : shiftedOutLow a >>> 1 = 0 := by
  apply BitVec.eq_of_toNat_eq
  rw [toNat_shiftRight_one, shiftedOutLow_toNat]
  exact Nat.div_eq_of_lt (Nat.mod_lt _ two_pos)

/-- A lost high bit shifted left is 2 or 0. -/
theorem shiftedOutHigh_shiftLeft_one (a : Byte) :
    shiftedOutHigh a <<< 1 = if 0x80 ≤ a.toNat then 0x02 else 0x00 := by
  have := a.isLt
  apply BitVec.eq_of_toNat_eq
  rw [toNat_shiftLeft_one, shiftedOutHigh_toNat]
  split
  · change _ = 2
    omega
  · change _ = 0
    omega

/-! ### What the two orders answer -/

/-- What an instruction of result and flag answers: the frame, `V[x]` as a number where `x` is not 0xF, and `VF`. -/
theorem State.resultThenFlag_spec (s : State) (x : Nibble) {r : Byte} {n : Nat} {p : Prop} [Decidable p]
    (hr : r.toNat = n) : let t := s.advance.resultThenFlag x r (flagByte (decide p))
    OnlyRegs [x, 0xF] s t ∧ (x ≠ 0xF → (t.readV x).toNat = n) ∧ t.readV 0xF = if p then 1 else 0 :=
  ⟨s.onlyRegs_resultThenFlag x _ _,
    fun hx => (congrArg _ (State.readV_resultThenFlag_of_ne _ _ _ hx)).trans hr,
    (State.readV_resultThenFlag_flag _ _ _ _).trans (flagByte_decide p)⟩

/-- What an instruction of flag and shift answers: the frame, `V[x]` and `VF` as numbers where `x` is not 0xF, and
`VF` where it is. -/
theorem State.flagThenShift_spec (s : State) (x : Nibble) {f v : Byte} {op : Byte → Byte} {m n : Nat}
    (hop : (op (s.readV x)).toNat = m) (hf : f.toNat = n) (hv : op f = v) :
    let t := s.advance.flagThenShift x f op
    OnlyRegs [x, 0xF] s t ∧ (x ≠ 0xF → (t.readV x).toNat = m ∧ (t.readV 0xF).toNat = n) ∧
      (x = 0xF → t.readV 0xF = v) := by
  refine ⟨s.onlyRegs_flagThenShift x f op, fun hx => ⟨?_, ?_⟩, ?_⟩
  · rw [readV_flagThenShift_of_ne _ _ _ hx, readV_advance, hop]
  · rw [readV_flagThenShift_flag_of_ne _ _ _ hx, hf]
  · rintro rfl
    rw [readV_flagThenShift_VF, hv]

/-! ### The statements -/

/-- Settles O19: each is one register write after the advance. -/
theorem loadsAndLogicWriteOneRegister : Obligations.LoadsAndLogicWriteOneRegister := by
  intro s x y kk
  have hwrite (b : Byte) : OnlyRegs [x] s (s.advance.writeV x b) ∧ (s.advance.writeV x b).readV x = b :=
    ⟨s.onlyRegs_advance_writeV x b, State.readV_writeV_same _ x b⟩
  have hadd : ((s.advance.writeV x (s.readV x + kk)).readV x).toNat =
      ((s.readV x).toNat + kk.toNat) % 256 := by
    rw [State.readV_writeV_same]
    exact BitVec.toNat_add _ _
  exact ⟨decodeWord_patXKK (r := .ldImm) rfl rfl x kk, ⟨_, rfl, hwrite _⟩,
    decodeWord_patXKK (r := .addImm) rfl rfl x kk, ⟨_, rfl, s.onlyRegs_advance_writeV x _, hadd⟩,
    decodeWord_patXY (r := .ldReg) rfl rfl x y, ⟨_, rfl, hwrite _⟩,
    decodeWord_patXY (r := .orReg) rfl rfl x y, ⟨_, rfl, hwrite _⟩,
    decodeWord_patXY (r := .andReg) rfl rfl x y, ⟨_, rfl, hwrite _⟩,
    decodeWord_patXY (r := .xorReg) rfl rfl x y, ⟨_, rfl, hwrite _⟩⟩

/-- Settles O20: each writes its result first and its flag second. -/
theorem arithmeticResultsAndFlags : Obligations.ArithmeticResultsAndFlags := by
  intro s x y
  exact ⟨decodeWord_patXY (r := .addReg) rfl rfl x y,
    ⟨_, rfl, s.resultThenFlag_spec x (BitVec.toNat_add _ _)⟩,
    decodeWord_patXY (r := .subReg) rfl rfl x y,
    ⟨_, rfl, s.resultThenFlag_spec x (toNat_sub_byte _ _)⟩,
    decodeWord_patXY (r := .subnReg) rfl rfl x y,
    ⟨_, rfl, s.resultThenFlag_spec x (toNat_sub_byte _ _)⟩⟩

/-- Settles O21: where `x` is not 0xF the flag write leaves `V[x]` alone, and where it is 0xF the flag itself is
shifted. -/
theorem shiftResultsAndFlags : Obligations.ShiftResultsAndFlags := by
  intro s x y
  exact ⟨decodeWord_patXY (r := .shr) rfl rfl x y,
    ⟨_, rfl, s.flagThenShift_spec x (toNat_shiftRight_one _) (shiftedOutLow_toNat _)
      (shiftedOutLow_shiftRight_one _)⟩,
    decodeWord_patXY (r := .shl) rfl rfl x y,
    ⟨_, rfl, s.flagThenShift_spec x (toNat_shiftLeft_one _) (shiftedOutHigh_toNat _)
      (shiftedOutHigh_shiftLeft_one _)⟩⟩

/-- Settles O22: a masked byte has no bit outside the mask. -/
theorem randomByteIsMasked : Obligations.RandomByteIsMasked := by
  intro s x kk
  have hread : (s.advance.nextDraw.writeV x (Config.rnd s.draws &&& kk)).readV x =
      Config.rnd s.draws &&& kk := State.readV_writeV_same _ _ _
  refine ⟨decodeWord_patXKK (r := .rnd) rfl rfl x kk, _, rfl, hread, ?_, rfl, fun r hr => ?_,
    fun _ => rfl⟩
  · rw [hread, BitVec.and_assoc, BitVec.and_not_self]
    exact BitVec.and_zero
  · exact State.readV_writeV_ne _ _ (by simpa using hr)

end Sys2Proof.Machine
end

section
/-! SUPPORT. Index register and memory transfers (43_index_memory.md R210 to R216): the words of format `X`, the
frame of a write of `I`, and the values written as numbers. -/

namespace Sys2Proof

open Sys2Proof.Stated

theorem decodeWord_patX {r : Row} {op low : Nat} (hr : r.format = .X)
    (hc : r.code.toNat = op * 4096 + low) (x : Nibble) :
    decodeWord (patX op x low) = .instr (r.instr x 0 0 0 0) := by
  refine decodeWord_ofNat ?_
  rw [r.format.toNat_eq_add, encode_instr_match, hc]
  simp [hr, Format.hasX, Format.hasY, Format.hasN, Format.hasKK, Format.hasNNN, fieldX_encode_instr]
  omega

namespace Machine

/-! ### Values as numbers -/

/-- A byte added to the index wraps at 16 bits. -/
theorem add_zextByte_toNat (w : Word) (b : Byte) :
    (w + zextByte b).toNat = (w.toNat + b.toNat) % 65536 := by
  simp [zextByte]

theorem lowNibble_toNat (b : Byte) : (lowNibble b).toNat = b.toNat % 16 := by
  simp [lowNibble]

/-- The last glyph's address needs no 17th bit. -/
theorem glyphAddr_toNat (d : Nibble) : (glyphAddr d).toNat = 0x50 + 5 * d.toNat :=
  Nat.mod_eq_of_lt (show fontBase + 5 * d.toNat < 65536 by rw [fontBase]; omega)

theorem hundreds_toNat (v : Byte) : (hundreds v).toNat = v.toNat / 100 :=
  Nat.mod_eq_of_lt (by omega)

theorem tens_toNat (v : Byte) : (tens v).toNat = v.toNat / 10 % 10 :=
  Nat.mod_eq_of_lt (by omega)

theorem ones_toNat (v : Byte) : (ones v).toNat = v.toNat % 10 :=
  Nat.mod_eq_of_lt (by omega)

/-! ### Writes of the index register -/

/-- After the advance a write of `I` changes nothing else. -/
theorem State.onlyIndex_advance_writeI (s : State) (w : Word) : OnlyIndex s (s.advance.writeI w) :=
  ⟨rfl, fun _ => rfl⟩

/-- `Fx1E` at the configuration's policy writes no flag (decision D6). -/
theorem exec_addI (s : State) (x : Nibble) :
    exec (.addI x) s = .next (s.advance.writeI (s.I + zextByte (s.readV x))) := rfl

/-- Under `FX1E_SETS_VF = true` the flag follows the sum, both from the values before. -/
theorem State.addToIndex_true (s : State) (x : Nibble) : s.addToIndex true x =
    (s.writeI (s.I + zextByte (s.readV x))).writeVF (indexOverflowFlag s.I (s.readV x)) := rfl

/-- Settles O24: each is one write of `I` after the advance. -/
theorem indexRegisterWrites : Obligations.IndexRegisterWrites := by
  intro s x nnn
  have hglyph : (glyphAddr (lowNibble (s.readV x))).toNat = 0x50 + 5 * ((s.readV x).toNat % 16) := by
    rw [glyphAddr_toNat, lowNibble_toNat]
  exact ⟨decodeWord_patNNN (r := .ldI) rfl rfl nnn,
    ⟨_, rfl, s.onlyIndex_advance_writeI _, zextAddr_toNat nnn⟩,
    decodeWord_patX (r := .addI) rfl rfl x,
    ⟨_, exec_addI s x, s.onlyIndex_advance_writeI _, add_zextByte_toNat _ _⟩,
    decodeWord_patX (r := .ldF) rfl rfl x,
    ⟨_, rfl, s.onlyIndex_advance_writeI _, hglyph⟩⟩

/-- Settles O25: the flag write is the last one. -/
theorem addIndexUnderTheFlagPolicy : Obligations.AddIndexUnderTheFlagPolicy := by
  intro s x
  rw [State.addToIndex_true]
  refine ⟨add_zextByte_toNat _ _, ?_, fun r hr => ?_, rfl⟩
  · rw [State.readV_writeVF, if_pos rfl, indexOverflowFlag, flagByte_decide]
  · rw [State.readV_writeVF, if_neg (by simpa using hr), State.readV_writeI]

/-! ### Decimal digits and block transfers -/

/-- A store at a later data address keeps the byte at an earlier one. -/
theorem State.memRead_memWrite_ea_of_lt (s t : State) {j k : Nat} (b : Byte) (hjk : j < k) (hk : k < 4096) :
    (t.memWrite (s.ea k) b).memRead (s.ea j) = t.memRead (s.ea j) :=
  t.memRead_memWrite_ne b fun he => hjk.ne (s.ea_inj (hjk.trans hk) hk he)

/-- Settles O26: the three data addresses differ, so no digit overwrites another. -/
theorem decimalDigitsAreStored : Obligations.DecimalDigitsAreStored := by
  refine fun s x => ⟨decodeWord_patX (r := .bcd) rfl rfl x, _, rfl, rfl, ?_, ?_, ?_, fun c hc => ?_⟩
  · rw [s.memRead_memWrite_ea_of_lt _ _ (by decide) (by decide),
      s.memRead_memWrite_ea_of_lt _ _ (by decide) (by decide), State.memRead_memWrite_same, hundreds_toNat]
  · rw [s.memRead_memWrite_ea_of_lt _ _ (by decide) (by decide), State.memRead_memWrite_same, tens_toNat]
  · rw [State.memRead_memWrite_same, ones_toNat]
  · rw [State.memRead_memWrite_ne _ _ (hc 2 (by decide)), State.memRead_memWrite_ne _ _ (hc 1 (by decide)),
      State.memRead_memWrite_ne _ _ (hc 0 (by decide)), State.memRead_advance]

/-- Settles O27: the block store of `x + 1` registers from the advanced state. -/
theorem blockStoreWritesRegisters : Obligations.BlockStoreWritesRegisters := by
  refine fun s x => ⟨decodeWord_patX (r := .storeRegs) rfl rfl x, _, rfl,
    s.advance.storeBlock_frame _, fun y hy => ?_, fun c hc => ?_⟩
  · rw [← s.ea_advance, State.storeBlock_memRead _ _ _ (by omega) (by omega), blockReg_of_toNat,
      State.readV_advance]
  · exact s.advance.storeBlock_memRead_other _ c fun k hk => hc k (Nat.le_of_lt_succ hk)

/-- Settles O28: the block load of `x + 1` registers from the advanced state. -/
theorem blockLoadReadsMemory : Obligations.BlockLoadReadsMemory := by
  refine fun s x => ⟨decodeWord_patX (r := .loadRegs) rfl rfl x, _, rfl,
    s.advance.loadBlock_frame _, s.advance.loadBlock_memRead _, fun y => ?_⟩
  rw [State.loadBlock_readV _ _ (by omega)]
  simp only [Nat.lt_succ_iff, State.memRead_advance, State.ea_advance, State.readV_advance]

end Machine

end Sys2Proof
end

section
/-! SUPPORT. Display instructions (44_display.md R230 to R233): the words of format `XYN`, the state after a
drawing, and its pixels, collision flag and frame. -/

namespace Sys2Proof

open Sys2Proof.Stated

theorem decodeWord_patXYN {r : Row} {op : Nat} (hr : r.format = .XYN) (hc : r.code.toNat = op * 4096)
    (x y n : Nibble) : decodeWord (patXY op x y n.toNat) = .instr (r.instr x y n 0 0) := by
  refine decodeWord_ofNat ?_
  rw [r.format.toNat_eq_add, encode_instr_match, hc]
  simp [hr, Format.hasX, Format.hasY, Format.hasN, Format.hasKK, Format.hasNNN, fieldX_encode_instr,
    fieldY_encode_instr, fieldN_encode_instr, mul_comm]

namespace Machine

/-- Settles O29: the advance and then the clearing, which leaves the same display whatever stood there. -/
theorem clearTurnsAllPixelsOff : Obligations.ClearTurnsAllPixelsOff :=
  ⟨decodeWord_encode .cls, fun s => ⟨_, rfl, s.advance.pixel_clearDisp, rfl, fun _ => rfl, _, rfl, rfl⟩⟩

/-! ### The state after a drawing -/

/-- The collision bit of `Dxyn` at the end of its loops. -/
def State.drawCollides (s : State) (x y n : Nibble) : Bool :=
  (drawRows (s.readV x) (s.readV y) n.toNat s.advance).2

/-- The state that `Dxyn` answers. -/
def State.drawn (s : State) (x y n : Nibble) : State :=
  (drawRows (s.readV x) (s.readV y) n.toNat s.advance).1.writeVF (flagByte (s.drawCollides x y n))

theorem exec_drw (s : State) (x y n : Nibble) : exec (.drw x y n) s = .next (s.drawn x y n) := rfl

/-- The model's sprite bit is the one that the statements speak of. -/
theorem spriteBit_iff_spriteOn {s : State} {x0 y0 : Byte} {n : Nibble} {px : Fin 64} {py : Fin 32} :
    spriteBit x0 y0 s n.toNat px py = true ↔ SpriteOn s x0 y0 n px py := by
  simp only [spriteBit_iff, SpriteOn, Fin.ext_iff, columnOf, rowOf]

section
variable (s : State) (x y n : Nibble)

theorem State.drawn_frame :
    s.drawn x y n = { s with V := (s.drawn x y n).V, Disp := (s.drawn x y n).Disp, pc := s.pc + 2 } := by
  rw [drawn, drawRows_frame]
  rfl

theorem State.pixel_drawn (px : Fin 64) (py : Fin 32) : (s.drawn x y n).pixel px py =
    (s.pixel px py ^^ spriteBit (s.readV x) (s.readV y) s n.toNat px py) := by
  rw [drawn, pixel_writeVF, drawRows_pixel _ _ _ (by omega), pixel_advance]
  rfl

theorem State.readV_drawn_of_ne {r : Nibble} (hr : r ≠ 0xF) : (s.drawn x y n).readV r = s.readV r := by
  rw [drawn, readV_writeVF, if_neg hr, drawRows_frame]
  rfl

theorem State.readV_drawn_VF : (s.drawn x y n).readV 0xF = flagByte (s.drawCollides x y n) := by
  rw [drawn, readV_writeVF, if_pos rfl]

theorem State.drawCollides_iff : s.drawCollides x y n = true ↔
    ∃ px py, s.pixel px py = true ∧ spriteBit (s.readV x) (s.readV y) s n.toNat px py = true :=
  drawRows_collision _ _ _ (by omega) s.advance

/-- With neither coordinate register `VF`, a second drawing has the sprite bits of the first: memory and `I` are
kept too. -/
theorem State.spriteBit_drawn {x y : Nibble} (hx : x ≠ 0xF) (hy : y ≠ 0xF) (px : Fin 64) (py : Fin 32) :
    spriteBit ((s.drawn x y n).readV x) ((s.drawn x y n).readV y) (s.drawn x y n) n.toNat px py =
      spriteBit (s.readV x) (s.readV y) s n.toNat px py := by
  rw [readV_drawn_of_ne _ _ _ _ hx, readV_drawn_of_ne _ _ _ _ hy, drawn_frame]
  rfl

end

/-! ### The statements -/

/-- Settles O30: each pixel is xored with the sprite's bit for it, and the flag is the collision bit. -/
theorem drawXorsTheSprite : Obligations.DrawXorsTheSprite := by
  intro s x y n
  simp only [← spriteBit_iff_spriteOn, ← State.drawCollides_iff, Bool.not_eq_true]
  refine ⟨decodeWord_patXYN (r := .drw) rfl rfl x y n, _, exec_drw s x y n, fun px py => ?_,
    fun h => ?_, fun h => ?_, s.drawn_frame x y n,
    fun r hr => s.readV_drawn_of_ne x y n (by simpa using hr), fun a => ?_⟩
  · rw [State.pixel_drawn]
    cases s.pixel px py <;> simp
  · rw [State.readV_drawn_VF, h, flagByte_eq_one]
  · rw [State.readV_drawn_VF, h, flagByte_eq_zero]
  · rw [State.drawn_frame]
    rfl

/-- Settles O31: both drawings have the same sprite bits, so each pixel is xored twice with one bit, and under a
sprite bit the second finds lit what the first found off. -/
theorem drawingTwiceRestoresTheDisplay : Obligations.DrawingTwiceRestoresTheDisplay := by
  intro s x y n hx hy
  refine ⟨_, _, exec_drw s x y n, exec_drw _ x y n, fun px py => ?_, ?_⟩
  · rw [State.pixel_drawn, s.spriteBit_drawn n hx hy, State.pixel_drawn, Bool.xor_assoc, Bool.xor_self,
      Bool.xor_false]
  · rw [State.readV_drawn_VF, flagByte_eq_one, State.drawCollides_iff]
    refine exists_congr fun px => exists_congr fun py => ?_
    rw [s.spriteBit_drawn n hx hy, State.pixel_drawn, ← spriteBit_iff_spriteOn]
    exact and_congr_left fun hon => by rw [hon, Bool.xor_true, Bool.not_eq_true']

end Machine

end Sys2Proof
end

section
/-! SUPPORT. Keypad and timer instructions (45_keypad_timers.md R250 to R256): a skip by its condition, the key that
a low nibble names, the sound output, and what leaves a key wait on. -/

namespace Sys2Proof.Machine

open Sys2Proof.Stated

/-- Where a skip leaves `pc`, by its condition. -/
theorem State.advance_skipIf_pc_eq_ite (s : State) (c : Bool) :
    (s.advance.skipIf c).pc = s.pc + (if c = true then 4 else 2) := by
  cases c
  · rfl
  · exact BitVec.add_assoc s.pc 2 2

/-- The key of a byte is the one whose number is the byte mod 16 (decision D9). -/
theorem lowNibble_eq_of_toNat {b : Byte} {k : Nibble} (h : k.toNat = b.toNat % 16) : lowNibble b = k :=
  BitVec.eq_of_toNat_eq (by rw [lowNibble_toNat, h])

/-- Sound is active while its timer runs. -/
theorem State.soundActive_iff (s : State) : s.soundActive = true ↔ s.ST ≠ 0 := bne_iff_ne

/-- A `set_key` that a wait does not capture leaves the wait as it was. -/
theorem setKey_waiting_of_not_captures {s : State} {k : Nibble} {down : Bool} (h : ¬ Captures s k down) :
    (setKey k down s).waiting = s.waiting := by
  rw [setKey_of_not_captures h]
  rfl

/-- Settles O32: each is a skip on the level of the named key, `ExA1` on its negation. -/
theorem keySkips : Obligations.KeySkips := by
  intro s x k hk
  have hkey : lowNibble (s.readV x) = k := lowNibble_eq_of_toNat hk
  refine ⟨decodeWord_patX (r := .skp) rfl rfl x, ⟨_, rfl, s.onlyPc_advance_skipIf _, ?_⟩,
    decodeWord_patX (r := .sknp) rfl rfl x, ⟨_, rfl, s.onlyPc_advance_skipIf _, ?_⟩⟩
  · rw [State.advance_skipIf_pc_eq_ite, hkey]
  · rw [State.advance_skipIf_pc_eq_ite, hkey]
    cases s.keyDown k <;> rfl

/-- Settles O33: each is one write after the advance, and the sound output reads the timer written. -/
theorem timerAccess : Obligations.TimerAccess := fun s x =>
  ⟨decodeWord_patX (r := .getDT) rfl rfl x,
    ⟨_, rfl, s.onlyRegs_advance_writeV x _, State.readV_writeV_same _ _ _⟩,
    decodeWord_patX (r := .setDT) rfl rfl x, ⟨_, rfl, rfl, fun _ => rfl⟩,
    decodeWord_patX (r := .setST) rfl rfl x,
    ⟨_, rfl, rfl, fun _ => rfl, State.soundActive_iff _⟩⟩

/-- Settles O34: in the wait that begins, the press of an up key is captured, as O35 says; that of a held key and
a release are not. -/
theorem keyWaitInstruction : Obligations.KeyWaitInstruction := by
  intro s x
  refine ⟨decodeWord_patX (r := .waitKey) rfl rfl x, s.advance.beginWait x, rfl, rfl, fun _ => rfl,
    step_of_waiting rfl, fun k hk => ?_, fun k hk => ?_, fun k => ?_⟩
  · obtain ⟨u, hu, hkeys, hcapture, -⟩ := setKeyWritesAndCaptures (s.advance.beginWait x) k true
    obtain ⟨hnumber, hend, -, hframe⟩ := hcapture ⟨rfl, rfl, hk⟩
    refine ⟨u, congrArg Prod.snd hu, hnumber, hend, ?_, ?_⟩
    · rw [hkeys, if_pos rfl]
    · rw [hframe]
      rfl
  · exact setKey_waiting_of_not_captures fun ⟨_, _, hup⟩ => Bool.false_ne_true (hup.symm.trans hk)
  · exact setKey_waiting_of_not_captures fun ⟨_, hdown, _⟩ => Bool.false_ne_true hdown

end Sys2Proof.Machine
end

section
/-! SUPPORT. The faults of a step (60_exceptions.md R270 to R276): what an instruction that answers no next state
meets, the cause of each fault, and what a cause depends on. -/

namespace Sys2Proof.Machine

open Sys2Proof.Stated

/-! ### When a step faults -/

/-- An instruction completes, or it is a call on a full stack or a return on an empty one (R271, R272). -/
theorem exec_next_or_fault (i : Instr) (s : State) :
    (∃ t, exec i s = .next t) ∨
    (∃ nnn, i = .call nnn ∧ s.sp.val = 16 ∧ exec i s = .fault .stackOverflow) ∨
    (i = .ret ∧ s.sp.val = 0 ∧ exec i s = .fault .stackUnderflow) := by
  cases i with
  | call nnn =>
    by_cases hsp : s.sp.val = 16
    · exact .inr (.inl ⟨nnn, rfl, hsp, exec_call_of_eq nnn hsp⟩)
    · exact .inl ⟨_, exec_call_of_lt nnn (by omega)⟩
  | ret =>
    by_cases hsp : s.sp.val = 0
    · exact .inr (.inr ⟨rfl, hsp, exec_ret_of_eq hsp⟩)
    · exact .inl ⟨_, exec_ret_of_ne hsp⟩
  | _ => exact .inl ⟨_, rfl⟩

/-- What a state that is not in key wait must meet for a step to fault (R271 to R273). -/
def FaultCause (s : State) : Fault → Prop
  | .stackOverflow => InRange s ∧ s.sp.val = 16 ∧ ∃ nnn, decodeWord s.fetch = .instr (.call nnn)
  | .stackUnderflow => InRange s ∧ s.sp.val = 0 ∧ decodeWord s.fetch = .instr .ret
  | .pcOutOfRange => s.pc.toNat < 0x0200 ∨ 0x0FFE < s.pc.toNat

/-- A step does not refuse, and it faults for a cause only. -/
theorem step_next_or_faultCause (s : State) :
    (∃ t, step s = .next t) ∨ ∃ f, step s = .fault f ∧ s.waiting = false ∧ FaultCause s f := by
  cases hw : s.waiting with
  | true => exact .inl ⟨s, step_of_waiting hw⟩
  | false =>
    by_cases hr : InRange s
    · rw [step_eq_runDecoded hw hr]
      cases hd : decodeWord s.fetch with
      | unknown w => exact .inl ⟨_, rfl⟩
      | instr i =>
        obtain hnext | ⟨nnn, rfl, hsp, hfault⟩ | ⟨rfl, hsp, hfault⟩ := exec_next_or_fault i s
        · exact .inl hnext
        · exact .inr ⟨_, hfault, rfl, hr, hsp, nnn, hd⟩
        · exact .inr ⟨_, hfault, rfl, hr, hsp, hd⟩
    · have hpc : s.pc.toNat < 0x0200 ∨ 0x0FFE < s.pc.toNat := by unfold InRange at hr; omega
      exact .inr ⟨_, step_of_outOfRange hw hpc, rfl, hpc⟩

/-- Out of key wait, a cause makes the step fault. -/
theorem FaultCause.step_eq {s : State} {f : Fault} (h : FaultCause s f) (hw : s.waiting = false) :
    step s = .fault f := by
  cases f with
  | stackOverflow =>
    obtain ⟨hr, hsp, nnn, hd⟩ := h
    rw [step_eq_runDecoded hw hr, hd]
    exact exec_call_of_eq nnn hsp
  | stackUnderflow =>
    obtain ⟨hr, hsp, hd⟩ := h
    rw [step_eq_runDecoded hw hr, hd]
    exact exec_ret_of_eq hsp
  | pcOutOfRange => exact step_of_outOfRange hw h

theorem step_eq_fault_iff {s : State} {f : Fault} :
    step s = .fault f ↔ s.waiting = false ∧ FaultCause s f := by
  refine ⟨fun h => ?_, fun ⟨hw, hcause⟩ => hcause.step_eq hw⟩
  obtain ⟨t, ht⟩ | ⟨g, hg, hcause⟩ := step_next_or_faultCause s
  · cases ht.symm.trans h
  · cases hg.symm.trans h
    exact hcause

theorem step_ne_refused (s : State) (r : Refusal) : step s ≠ .refused r := by
  obtain ⟨t, ht⟩ | ⟨f, hf, -⟩ := step_next_or_faultCause s
  · simp [ht]
  · simp [hf]

/-- Settles O11: a step faults exactly for its cause, out of key wait. -/
theorem faultsExactlyUnderTheirConditions : Obligations.FaultsExactlyUnderTheirConditions :=
  ⟨fun s => ⟨step_eq_fault_iff, step_eq_fault_iff, step_eq_fault_iff, step_ne_refused s⟩,
    rfl, fun _ => rfl, rfl, rfl, rfl⟩

/-! ### What leaves a fault standing -/

/-- The fetched word is read from `pc` and memory only. -/
theorem State.fetch_congr {s t : State} (hpc : t.pc = s.pc) (hmem : t.Mem = s.Mem) :
    t.fetch = s.fetch := by
  simp only [fetch_eq, memRead, hpc, hmem]

/-- The cause of a fault is in `pc`, `sp` and memory only. -/
theorem FaultCause.congr {s t : State} {f : Fault} (h : FaultCause s f) (hpc : t.pc = s.pc)
    (hsp : t.sp = s.sp) (hmem : t.Mem = s.Mem) : FaultCause t f := by
  have hfetch := State.fetch_congr hpc hmem
  cases f <;> simpa only [FaultCause, InRange, hpc, hsp, hfetch] using h

/-- A state with the same `pc`, `sp`, memory and key wait faults in the same way. -/
theorem step_fault_congr {s t : State} {f : Fault} (h : step s = .fault f) (hw : t.waiting = s.waiting)
    (hpc : t.pc = s.pc) (hsp : t.sp = s.sp) (hmem : t.Mem = s.Mem) : step t = .fault f := by
  obtain ⟨hwait, hcause⟩ := step_eq_fault_iff.mp h
  exact (hcause.congr hpc hsp hmem).step_eq (hw.trans hwait)

/-- Out of key wait, `set_key` writes its key's level alone. -/
theorem setKey_of_not_waiting {s : State} (hw : s.waiting = false) (k : Nibble) (down : Bool) :
    setKey k down s = s.writeKey k down :=
  setKey_of_not_captures fun ⟨hwait, _⟩ => Bool.false_ne_true (hw.symm.trans hwait)

/-- Settles O12: a tick and, out of key wait, a `set_key` keep `pc`, `sp` and memory, where the cause is; a load
keeps `pc`, where that of `PcOutOfRange` is. -/
theorem faultsArePreciseAndRepeat : Obligations.FaultsArePreciseAndRepeat := by
  intro s f hfault
  obtain ⟨hw, hcause⟩ := step_eq_fault_iff.mp hfault
  refine ⟨stepTxn_fault hfault, step_fault_congr hfault rfl rfl rfl rfl, fun k down => ?_, ?_⟩
  · rw [transact, setKey_of_not_waiting hw]
    exact step_fault_congr hfault rfl rfl rfl rfl
  · rintro rfl bytes
    rw [transact, load_frame]
    exact step_of_outOfRange hw hcause

end Sys2Proof.Machine
end

section
/-! SUPPORT. Reset, load and the first fetch, and runs of zero words (70_reset_and_hazards.md R312 to R314): runs put
together from their parts, a faulting step asked again, and zero bytes as the unknown word 0x0000. -/

namespace Sys2Proof.Machine

open Sys2Proof.Stated

/-! ### Runs from their parts -/

theorem runTransactions_cons_eq {t : Transaction} {ts : List Transaction} {s u v : State} {r : Reply}
    {rs : List Reply} (ht : transact t s = (r, u)) (hts : runTransactions ts u = (rs, v)) :
    runTransactions (t :: ts) s = (r :: rs, v) := by
  simp only [runTransactions, ht, hts]

theorem runTransactions_append_eq {ts us : List Transaction} {s u v : State} {rs qs : List Reply}
    (hts : runTransactions ts s = (rs, u)) (hus : runTransactions us u = (qs, v)) :
    runTransactions (ts ++ us) s = (rs ++ qs, v) := by
  rw [runTransactions_append, hts, hus]

/-- A step that faults keeps the state, so each further one faults alike (R276). -/
theorem runTransactions_steps_of_fault {s : State} {f : Fault} (h : step s = .fault f) (j : Nat) :
    runTransactions (List.replicate j .step) s = (List.replicate j (.err f), s) := by
  induction j with
  | zero => rfl
  | succ j ih => exact runTransactions_cons_eq (stepTxn_fault h) ih

/-! ### Reset and load -/

/-- From 0x200 up a reset leaves every byte zero: the font ends at 0x09F. -/
theorem memRead_reset_of_le {a : Addr} (s : State) (ha : 0x200 ≤ a.toNat) : (reset s).memRead a = 0 :=
  (resetByte_eq _ _).trans (dif_neg (by omega))

/-- Settles O39: the load keeps the key wait and `pc` of the reset and puts its first two bytes at 0x200 and
0x201. -/
theorem firstFetchIsTheFirstLoadedWord : Obligations.FirstFetchIsTheFirstLoadedWord := by
  intro s hi lo rest hlen
  obtain ⟨u, hload, hframe, hread⟩ := (loadIsAllOrNothing (reset s) (hi :: lo :: rest)).2 hlen
  have hw : u.waiting = false := congrArg State.waiting hframe
  have hpc : u.pc = 0x200 := congrArg State.pc hframe
  have hhi : u.memRead 0x200 = hi := (hread 0x200).trans (dif_pos ⟨by decide, by simp⟩)
  have hlo : u.memRead 0x201 = lo := (hread 0x201).trans (dif_pos ⟨by decide, by simp⟩)
  refine ⟨u, runTransactions_cons_eq rfl (runTransactions_cons_eq hload rfl), hw, ?_, ?_, ?_⟩
  · rw [hpc]
    rfl
  · rw [InRange, hpc]
    decide
  · rw [State.fetch_eq, hpc, ← hhi, ← hlo]
    rfl

/-! ### Zero words -/

theorem zero_matches_no_row (r : Row) : (0 : Word) &&& r.format.mask ≠ r.code := by
  cases r <;> decide

/-- A step that fetches two zero bytes reports the word 0x0000 and only advances (R100). -/
theorem transact_step_of_zeroBytes {s : State} (hw : s.waiting = false) (hr : InRange s)
    (hhi : s.memRead (BitVec.ofNat 12 s.pc.toNat) = 0)
    (hlo : s.memRead (BitVec.ofNat 12 (s.pc.toNat + 1)) = 0) :
    transact .step s = (.unknownOpcode 0x0000, { s with pc := s.pc + 2 }) := by
  have hfetch : s.fetch = 0x0000 := by
    rw [State.fetch_eq, hhi, hlo]
    rfl
  obtain ⟨-, htxn⟩ := unknownOpcodeOnlyAdvances s hw hr (hfetch ▸ zero_matches_no_row)
  rwa [hfetch] at htxn

/-- Every byte from `pc` on is zero. -/
def ZeroFromPc (s : State) : Prop := ∀ a : Addr, s.pc.toNat ≤ a.toNat → s.memRead a = 0

theorem ZeroFromPc.memRead_ofNat {s : State} (hz : ZeroFromPc s) {m : Nat} (hpc : s.pc.toNat ≤ m)
    (hm : m < 0x1000) : s.memRead (BitVec.ofNat 12 m) = 0 :=
  hz _ (by rwa [BitVec.toNat_ofNat, Nat.mod_eq_of_lt hm])

theorem State.pc_add_ofNat_toNat {s : State} {n : Nat} (h : s.pc.toNat + n ≤ 0x1000) :
    (s.pc + BitVec.ofNat 16 n).toNat = s.pc.toNat + n := by
  rw [BitVec.toNat_add, BitVec.toNat_ofNat]
  omega

/-- Over zero bytes each step reports 0x0000 and advances, while `pc` is below the end of memory. Where `pc` is at
that end already, no step is left to take, so `pc` needs a lower bound only. -/
theorem runTransactions_steps_of_zeroFromPc {s : State} (hw : s.waiting = false)
    (hlow : 0x200 ≤ s.pc.toNat) (hz : ZeroFromPc s) (k : Nat) (hk : s.pc.toNat + 2 * k ≤ 0x1000) :
    runTransactions (List.replicate k .step) s =
      (List.replicate k (.unknownOpcode 0x0000), { s with pc := s.pc + BitVec.ofNat 16 (2 * k) }) := by
  induction k generalizing s with
  | zero => simp [runTransactions]
  | succ k ih =>
    have hstep : transact .step s = (.unknownOpcode 0x0000, { s with pc := s.pc + 2 }) :=
      transact_step_of_zeroBytes hw ⟨hlow, by omega⟩ (hz.memRead_ofNat (by omega) (by omega))
        (hz.memRead_ofNat (by omega) (by omega))
    have hpc : (s.pc + 2).toNat = s.pc.toNat + 2 := State.pc_add_ofNat_toNat (n := 2) (by omega)
    have hrest := ih (s := { s with pc := s.pc + 2 }) hw (by simp only [hpc]; omega)
      (fun a ha => hz a (by simp only [hpc] at ha; omega)) (by simp only [hpc]; omega)
    have hsum : s.pc + 2 + BitVec.ofNat 16 (2 * k) = s.pc + BitVec.ofNat 16 (2 * (k + 1)) := by
      rw [BitVec.add_assoc, Nat.mul_succ, Nat.add_comm, BitVec.ofNat_add]
      rfl
    exact runTransactions_cons_eq hstep (hsum ▸ hrest)

/-- Once `pc` has passed the last fetch address, the steps after the zero words all fault. -/
theorem runTransactions_steps_past_zeroFromPc {s : State} (hw : s.waiting = false)
    (hlow : 0x200 ≤ s.pc.toNat) (hz : ZeroFromPc s) {k : Nat} (hk : s.pc.toNat + 2 * k ≤ 0x1000)
    (hend : 0x0FFE < s.pc.toNat + 2 * k) (j : Nat) :
    runTransactions (List.replicate (k + j) .step) s =
      (List.replicate k (.unknownOpcode 0x0000) ++ List.replicate j (.err .pcOutOfRange),
        { s with pc := s.pc + BitVec.ofNat 16 (2 * k) }) := by
  have hfault : step { s with pc := s.pc + BitVec.ofNat 16 (2 * k) } = .fault .pcOutOfRange :=
    step_of_outOfRange hw (.inr (by rwa [State.pc_add_ofNat_toNat hk]))
  rw [List.replicate_add]
  exact runTransactions_append_eq (runTransactions_steps_of_zeroFromPc hw hlow hz k hk)
    (runTransactions_steps_of_fault hfault j)

/-- Settles O52: the run over zero words up to the end of memory, and the faults there; a reset leaves zero bytes
from 0x200 on. -/
theorem emptyMemoryRunsToTheEnd : Obligations.EmptyMemoryRunsToTheEnd := by
  refine ⟨fun _ => transact_step_of_zeroBytes, fun s hw ⟨hlow, _⟩ hz k hk => ⟨?_, fun hend => ?_⟩, ?_⟩
  · exact runTransactions_steps_of_zeroFromPc hw hlow hz k hk
  · exact runTransactions_steps_past_zeroFromPc hw hlow hz hk hend
  · intro s j
    have hpc : (reset s).pc.toNat = 0x200 := rfl
    exact runTransactions_cons_eq rfl <| runTransactions_steps_past_zeroFromPc (s := reset s) (k := 1792) rfl
      hpc.ge (fun a ha => memRead_reset_of_le s ha) (by omega) (by omega) j

end Sys2Proof.Machine
end
